-- ==== Sys2Proof/Word.lean ====
section
/-! DEFINITION. The widths of the block: byte, word, block or key, command word, index field (rules R5, R13, R60, R62).
All values are unsigned bit vectors and nothing is signed (R13). -/

namespace Sys2Proof

/-- 8 bits (R5). -/
abbrev Byte := BitVec 8

/-- 32 bits: a word, a round key (R5). -/
abbrev Word := BitVec 32

/-- 128 bits: a block, a key, the ports `DIN` and `DOUT` (R5, R60). -/
abbrev Block := BitVec 128

/-- 16 bits: the port `CMD` (R60, R62). -/
abbrev CommandWord := BitVec 16

/-- 5 bits: the field `idx` of a command word (R62). -/
abbrev Index := BitVec 5

end Sys2Proof
end

