-- ==== Sys2Proof/Syntax.lean ====
section
/-! DEFINITION. The 16 commands, one constructor per row of spec/opcode_table.json (rules R62 to R66), and their assembler text (R69).
`DIN` and `RKIN` are ports, not fields of a command word, so they are no arguments of a command. -/

namespace Sys2Proof

/-- What the modifier bit `m` selects in `RND`, `CRYPT`, `RDRK` (R62). -/
inductive RoundKeySet where
  /-- `m = 0`, suffix `.E`: the encryption set `ERK`. -/
  | enc
  /-- `m = 1`, suffix `.D`: the decryption set `DRK`. -/
  | dec
deriving DecidableEq, Repr

/-- What the modifier bit `m` says in `KINIT`, `KEXP` (R62). -/
inductive KeySource where
  /-- `m = 0`, no suffix: the key is on `DIN`. -/
  | din
  /-- `m = 1`, suffix `.Z`: the all-zero default key, `DIN` is ignored. -/
  | zero
deriving DecidableEq, Repr

/-- The commands, in the order of the opcode map (R66). -/
inductive Instr where
  /-- `SBOX` (R97). -/
  | sbox
  /-- `SBOX32` (R98). -/
  | sbox32
  /-- `LENC` (R116). -/
  | lenc
  /-- `LKEY` (R117). -/
  | lkey
  /-- `TENC` (R118). -/
  | tenc
  /-- `TKEY` (R119). -/
  | tkey
  /-- `KINIT` and `KINIT.Z` (R137). -/
  | kinit (src : KeySource)
  /-- `KRND r` (R138). -/
  | krnd (idx : Index)
  /-- `KEXP` and `KEXP.Z` (R139). -/
  | kexp (src : KeySource)
  /-- `RNDX pos` (R153): the field is the whole `idx`, of which a legal word has bits 4:2 zero. -/
  | rndx (idx : Index)
  /-- `RND.E r` and `RND.D r` (R154). -/
  | rnd (keys : RoundKeySet) (idx : Index)
  /-- `REV` (R155). -/
  | rev
  /-- `CRYPT.E` and `CRYPT.D` (R172). -/
  | crypt (keys : RoundKeySet)
  /-- `RDRK.E i` and `RDRK.D i` (R182). -/
  | rdrk (keys : RoundKeySet) (idx : Index)
  /-- `RDST` (R183). -/
  | rdst
  /-- `CLR` (R184). -/
  | clr
deriving DecidableEq, Repr

/-- The mnemonic of the opcode map (R66). -/
def Instr.mnemonic : Instr → String
  | .sbox => "SBOX"
  | .sbox32 => "SBOX32"
  | .lenc => "LENC"
  | .lkey => "LKEY"
  | .tenc => "TENC"
  | .tkey => "TKEY"
  | .kinit _ => "KINIT"
  | .krnd _ => "KRND"
  | .kexp _ => "KEXP"
  | .rndx _ => "RNDX"
  | .rnd _ _ => "RND"
  | .rev => "REV"
  | .crypt _ => "CRYPT"
  | .rdrk _ _ => "RDRK"
  | .rdst => "RDST"
  | .clr => "CLR"

/-- The suffix that spells `m`: mandatory `.E` or `.D` for a Round Key Set (R69). -/
def RoundKeySet.suffix : RoundKeySet → String
  | .enc => ".E"
  | .dec => ".D"

/-- The suffix that spells `m`: none, or `.Z` for the default key (R69). -/
def KeySource.suffix : KeySource → String
  | .din => ""
  | .zero => ".Z"

/-- The command part of a transaction's assembler text, mnemonic, suffix and decimal index (R69). -/
def Instr.text (i : Instr) : String :=
  match i with
  | .sbox | .sbox32 | .lenc | .lkey | .tenc | .tkey | .rev | .rdst | .clr => i.mnemonic
  | .kinit src | .kexp src => i.mnemonic ++ src.suffix
  | .krnd idx | .rndx idx => i.mnemonic ++ " " ++ toString idx.toNat
  | .rnd keys idx | .rdrk keys idx => i.mnemonic ++ keys.suffix ++ " " ++ toString idx.toNat
  | .crypt keys => i.mnemonic ++ keys.suffix

end Sys2Proof
end

