-- ==== Sys2Proof/WellFormed.lean ====
section
/-! DEFINITION. Which terms of `Instr` a legal command word can hold (rules R62, R66, R67). -/

namespace Sys2Proof

/-- A term is well formed when some command word decodes to it.
The one check is `RNDX`'s: `idx[4:2] = 0` (R62, R153).
Every other field admits every value of its type. -/
def Instr.wellFormed : Instr → Bool
  | .rndx idx => idx.extractLsb' 2 3 == 0#3
  | .sbox | .sbox32 | .lenc | .lkey | .tenc | .tkey | .kinit _ | .krnd _ | .kexp _
  | .rnd _ _ | .rev | .crypt _ | .rdrk _ _ | .rdst | .clr => true

/-- The check as a proposition. -/
abbrev Instr.WellFormed (i : Instr) : Prop := i.wellFormed = true

end Sys2Proof
end

