-- ==== Sys2Proof/Decode.lean ====
section
/-! DEFINITION. The command word: its fields, the opcode map, the decoder, the encoder (rules R62 to R68). -/

namespace Sys2Proof

/-! ## Fields (R62) -/

/-- `op`, bits 15:8. -/
def opField (w : CommandWord) : BitVec 8 := w.extractLsb' 8 8

/-- `m`, bit 7. -/
def mField (w : CommandWord) : BitVec 1 := w.extractLsb' 7 1

/-- `z`, bits 6:5, zero in every command. -/
def zField (w : CommandWord) : BitVec 2 := w.extractLsb' 5 2

/-- `idx`, bits 4:0. -/
def idxField (w : CommandWord) : Index := w.extractLsb' 0 5

/-- `m` as a Round Key Set. -/
def keySetOfBit (m : BitVec 1) : RoundKeySet := if m = 0 then .enc else .dec

/-- `m` as the no-key flag. -/
def keySourceOfBit (m : BitVec 1) : KeySource := if m = 0 then .din else .zero

/-! ## Decoding -/

/-- Why a command word is illegal: the ways R67 lists.
The block itself does not tell them apart: each gives the one status `IllegalCommand`, and nothing is recorded (R201). -/
inductive IllegalWord where
  /-- `op` is in no row of the opcode map. -/
  | opcodeNotInTable
  /-- `z` is not zero. -/
  | reservedBitsSet
  /-- `m = 1` in a format that does not use it. -/
  | modifierNotUsed
  /-- `idx` is not zero in a format that does not use it. -/
  | indexNotUsed
  /-- `RNDX` with `idx[4:2]` not zero. -/
  | positionTooLarge
deriving DecidableEq, Repr

/-- Format `F`: `op` only (R63). -/
def formatF (w : CommandWord) (i : Instr) : Except IllegalWord Instr :=
  if zField w ≠ 0 then .error .reservedBitsSet
  else if mField w ≠ 0 then .error .modifierNotUsed
  else if idxField w ≠ 0 then .error .indexNotUsed
  else .ok i

/-- Format `M`: `op` and `m` (R63). -/
def formatM (w : CommandWord) (i : BitVec 1 → Instr) : Except IllegalWord Instr :=
  if zField w ≠ 0 then .error .reservedBitsSet
  else if idxField w ≠ 0 then .error .indexNotUsed
  else .ok (i (mField w))

/-- Format `X`: `op` and `idx` (R63). -/
def formatX (w : CommandWord) (i : Index → Instr) : Except IllegalWord Instr :=
  if zField w ≠ 0 then .error .reservedBitsSet
  else if mField w ≠ 0 then .error .modifierNotUsed
  else .ok (i (idxField w))

/-- Format `XM`: `op`, `m` and `idx` (R63). -/
def formatXM (w : CommandWord) (i : BitVec 1 → Index → Instr) : Except IllegalWord Instr :=
  if zField w ≠ 0 then .error .reservedBitsSet
  else .ok (i (mField w) (idxField w))

/-- Format `X` with `idx[4:2] = 0`: `RNDX` (R63). -/
def formatPosition (w : CommandWord) (i : Index → Instr) : Except IllegalWord Instr :=
  if (idxField w).extractLsb' 2 3 ≠ 0 then .error .positionTooLarge
  else formatX w i

/-- Decoding, total on all 2^16 command words and independent of the state (R66, R67, R68). -/
def decode (w : CommandWord) : Except IllegalWord Instr :=
  match opField w with
  | 0x10#8 => formatF w .sbox
  | 0x11#8 => formatF w .sbox32
  | 0x12#8 => formatF w .lenc
  | 0x13#8 => formatF w .lkey
  | 0x14#8 => formatF w .tenc
  | 0x15#8 => formatF w .tkey
  | 0x20#8 => formatM w fun m => .kinit (keySourceOfBit m)
  | 0x21#8 => formatX w .krnd
  | 0x22#8 => formatM w fun m => .kexp (keySourceOfBit m)
  | 0x30#8 => formatPosition w .rndx
  | 0x31#8 => formatXM w fun m idx => .rnd (keySetOfBit m) idx
  | 0x32#8 => formatF w .rev
  | 0x33#8 => formatM w fun m => .crypt (keySetOfBit m)
  | 0x40#8 => formatXM w fun m idx => .rdrk (keySetOfBit m) idx
  | 0x41#8 => formatF w .rdst
  | 0x42#8 => formatF w .clr
  | _ => .error .opcodeNotInTable

/-! ## Encoding -/

/-- The value of `op` (R66). -/
def opcode : Instr → BitVec 8
  | .sbox => 0x10
  | .sbox32 => 0x11
  | .lenc => 0x12
  | .lkey => 0x13
  | .tenc => 0x14
  | .tkey => 0x15
  | .kinit _ => 0x20
  | .krnd _ => 0x21
  | .kexp _ => 0x22
  | .rndx _ => 0x30
  | .rnd _ _ => 0x31
  | .rev => 0x32
  | .crypt _ => 0x33
  | .rdrk _ _ => 0x40
  | .rdst => 0x41
  | .clr => 0x42

/-- `m` of a Round Key Set. -/
def bitOfKeySet : RoundKeySet → BitVec 1
  | .enc => 0
  | .dec => 1

/-- `m` of the no-key flag. -/
def bitOfKeySource : KeySource → BitVec 1
  | .din => 0
  | .zero => 1

/-- The value of `m`, zero where the format does not use it (R62). -/
def modifier : Instr → BitVec 1
  | .kinit src | .kexp src => bitOfKeySource src
  | .rnd keys _ | .crypt keys | .rdrk keys _ => bitOfKeySet keys
  | .sbox | .sbox32 | .lenc | .lkey | .tenc | .tkey | .krnd _ | .rndx _ | .rev | .rdst | .clr => 0

/-- The value of `idx`, zero where the format does not use it (R62). -/
def index : Instr → Index
  | .krnd idx | .rndx idx | .rnd _ idx | .rdrk _ idx => idx
  | .sbox | .sbox32 | .lenc | .lkey | .tenc | .tkey | .kinit _ | .kexp _ | .rev | .crypt _ | .rdst | .clr => 0

/-- The command word of a command: `op || m || 00 || idx` (R62). -/
def encode (i : Instr) : CommandWord := opcode i ++ modifier i ++ 0#2 ++ index i

/-! ## The opcode map as the spec prints it (R66) -/

/-- One row of the map: a word `w` selects it when `w AND mask = pattern`. -/
structure OpcodeRow where
  mnemonic : String
  pattern : CommandWord
  mask : CommandWord
deriving DecidableEq, Repr

/-- The word selects the row. -/
def OpcodeRow.selects (row : OpcodeRow) (w : CommandWord) : Bool := w &&& row.mask == row.pattern

/-- The 16 rows of R66, in its order. -/
def opcodeTable : List OpcodeRow :=
  [⟨"SBOX", 0x1000, 0xFFFF⟩, ⟨"SBOX32", 0x1100, 0xFFFF⟩, ⟨"LENC", 0x1200, 0xFFFF⟩, ⟨"LKEY", 0x1300, 0xFFFF⟩,
   ⟨"TENC", 0x1400, 0xFFFF⟩, ⟨"TKEY", 0x1500, 0xFFFF⟩, ⟨"KINIT", 0x2000, 0xFF7F⟩, ⟨"KRND", 0x2100, 0xFFE0⟩] ++
  [⟨"KEXP", 0x2200, 0xFF7F⟩, ⟨"RNDX", 0x3000, 0xFFFC⟩, ⟨"RND", 0x3100, 0xFF60⟩, ⟨"REV", 0x3200, 0xFFFF⟩,
   ⟨"CRYPT", 0x3300, 0xFF7F⟩, ⟨"RDRK", 0x4000, 0xFF60⟩, ⟨"RDST", 0x4100, 0xFFFF⟩, ⟨"CLR", 0x4200, 0xFFFF⟩]

/-! ## The host's entry -/

/-- The command whose word has the bits `w`.
There is one command length, 16 bits, presented whole (R46, R62), so no byte order enters, and a number that does not fit 16 bits is no command word. -/
def decodeTableWord (_nbits w : Nat) : Option Instr :=
  if w < 2 ^ 16 then
    match decode (BitVec.ofNat 16 w) with
    | .ok i => some i
    | .error _ => none
  else none

end Sys2Proof
end

