-- ==== Sys2Proof/Config.lean ====
section
/-! DEFINITION. The one implementation parameter of the block, `SBOX_IMPL` (rules R7, R26, decision D12). -/

namespace Sys2Proof

/-- The S-Box implementation strategies of R7.
It is also the set of values the field `BACKEND` of `CTXSTAT` can hold: the fourth value of the 2-bit field is never held (R24), and here it cannot be written down. -/
inductive SboxImpl where
  /-- `TABLE`, number 0: a direct 256-entry table. -/
  | table
  /-- `ISO_AES`, number 1: an isomorphic mapping onto an AES byte substitution. -/
  | isoAes
  /-- `ISO_INV`, number 2: an isomorphic mapping onto a field inversion. -/
  | isoInv
deriving DecidableEq, Repr, Inhabited

/-- `SBOX_IMPL`: the strategy this instance is built with (R7).
The spec leaves it OPEN (D12), so it has no body and every claim holds for all three values. -/
opaque Config.sboxImpl : SboxImpl

end Sys2Proof
end

