-- ==== Sys2Proof/Machine/State.lean ====
section
/-! DEFINITION. The state: the Cipher Context of rule R20 (the spec's whole state), and the model's own fields for the host's side of the ports (assumption log 1 and 2). -/

namespace Sys2Proof.Machine

/-- `CTXSTAT`, the one control and status register, 3 bits in two fields (R24). -/
structure CtxStat where
  /-- Bit 0, `VALID`: a context exists (R24, R25). -/
  valid : Bool
  /-- Bits 2:1, `BACKEND`: the S-Box strategy latched by `KEXP` (R24, R26). -/
  backend : SboxImpl
deriving DecidableEq, Repr

/-- The Cipher Context: exactly the state R20 gives one instance, 2051 bits. -/
structure Context where
  /-- `ERK[0..31]`, the encryption Round Key Set (R21). -/
  erk : Vector Word 32
  /-- `DRK[0..31]`, the decryption Round Key Set (R22). -/
  drk : Vector Word 32
  /-- `CTXSTAT` (R24). -/
  stat : CtxStat
deriving DecidableEq, Repr

/-- What the host presents for one transaction on the ports `CMD`, `DIN`, `RKIN` (R60). -/
structure Request where
  cmd : CommandWord
  din : Block
  rkin : Word
deriving DecidableEq, Repr

/-- What the host can do to the block between transactions (R12): issue one, or assert `RESET`.
A reset is an event in the same total order as the transactions (R231). -/
inductive HostEvent where
  | transaction (r : Request)
  | reset
deriving DecidableEq, Repr

/-- The port `STATUS` (R200).
The codes 4 to 7, never produced, cannot be written down here (U9). -/
inductive Status where
  /-- Code 0: the command completed. -/
  | ok
  /-- Code 1: the word is outside the opcode map (R201). -/
  | illegalCommand
  /-- Code 2: a Round Key Set is asked for while `VALID = 0` (R202). -/
  | contextInvalid
  /-- Code 3: `KEXP` while `VALID = 1` (R203). -/
  | contextLocked
deriving DecidableEq, Repr

/-- What a transaction answers on `DOUT` and `STATUS` (R60). -/
structure Answer where
  dout : Block
  status : Status
deriving DecidableEq, Repr

/-- The reasons for which the machine stops: none.
Every command word, with every operand and in every state, has an outcome (R61), every transaction completes (R239), and an error is a value of `STATUS` (R210), so no instruction raises a fault, and this type has no constructor (safe: nothing is hidden by it). -/
inductive Fault where
deriving DecidableEq, Repr

/-- The reasons for which the model gives no meaning. -/
inductive Refusal where
  /-- Raised by an arm of `exec` whose instruction has no meaning yet, and by nothing else (safe: the model stops).
  No arm raises it now: all 16 commands are modelled. -/
  | notModelled (mnemonic : String)
deriving DecidableEq, Repr

/-- The state of the model.
`ctx` is the block's state, all of it (R20).
`port`, `pending` and `answer` are the host's side of the ports, which R10 does not count as the block's state: a step takes its inputs from them and leaves its outputs there. -/
structure State where
  /-- The Cipher Context. -/
  ctx : Context
  /-- What the host drives on `CMD`, `DIN`, `RKIN` during the present (or the last) transaction. -/
  port : Request
  /-- What the host will do, the next first: the total order of R50 and R231. -/
  pending : List HostEvent
  /-- `DOUT` and `STATUS` of the transaction this step ran; none when it ran none (they are not readable later, R30). -/
  answer : Option Answer
deriving DecidableEq, Repr

/-- The reset value of the context: every bit zero (R31, R230). -/
def Context.reset : Context where
  erk := Vector.replicate 32 0
  drk := Vector.replicate 32 0
  stat := { valid := false, backend := .table }

/-- The machine right after reset (R31), before the host has presented anything (assumption log 2). -/
def State.reset : State where
  ctx := Context.reset
  port := { cmd := 0, din := 0, rkin := 0 }
  pending := []
  answer := none

end Sys2Proof.Machine
end

