-- ==== Sys2Proof/Machine/Flags.lean ====
section
/-! DEFINITION. The fields of `CTXSTAT` as bits, the numbers of the status codes, and the two values `CTXSTAT` is written with (rules R24 to R26, R200). -/

namespace Sys2Proof.Machine

/-- The number of an S-Box strategy (R7, R26). -/
def backendNumber : SboxImpl → BitVec 2
  | .table => 0
  | .isoAes => 1
  | .isoInv => 2

/-- `CTXSTAT` as a 3-bit value: `BACKEND` in bits 2:1, `VALID` in bit 0 (R24). -/
def ctxStatBits (c : CtxStat) : BitVec 3 := backendNumber c.backend ++ BitVec.ofBool c.valid

/-- The code of a status on the port `STATUS` (R200). -/
def statusCode : Status → BitVec 3
  | .ok => 0
  | .illegalCommand => 1
  | .contextInvalid => 2
  | .contextLocked => 3

/-- `CTXSTAT` after a successful `KEXP`: `VALID` set, `BACKEND` latched from `SBOX_IMPL` (R25, R26, R135). -/
def ctxStatReady : CtxStat := { valid := true, backend := Config.sboxImpl }

/-- `CTXSTAT` after `CLR` or reset: zero (R184, R230). -/
def ctxStatClear : CtxStat := { valid := false, backend := .table }

end Sys2Proof.Machine
end

