-- ==== Sys2Proof/Machine/Operands.lean ====
section
/-! DEFINITION. Operand forms: rotations, the lanes of the data ports, the uses of `idx`, the key operand (rules R13 to R15, R45, R48, R64). -/

namespace Sys2Proof.Machine

/-! ## Rotations (R14) -/

/-- `rol32(v, n)` for `0 < n < 32` (R14). -/
def rol32 (v : Word) (n : Nat) : Word := (v <<< n) ||| (v >>> (32 - n))

/-- `rol8(b, n)` for `0 < n < 8` (R14). -/
def rol8 (b : Byte) (n : Nat) : Byte := (b <<< n) ||| (b >>> (8 - n))

/-! ## Lanes of a 128-bit port (R15, R45) -/

/-- `byte(D, i) = D[127-8i : 120-8i]`. -/
def byteOf (d : Block) (i : Fin 16) : Byte := d.extractLsb' (120 - 8 * i.val) 8

/-- `word(D, j) = D[127-32j : 96-32j]`. -/
def wordOf (d : Block) (j : Fin 4) : Word := d.extractLsb' (96 - 32 * j.val) 32

/-- `W4(a, b, c, d) = a || b || c || d`. -/
def w4 (a b c d : Word) : Block := a ++ b ++ c ++ d

/-- Four 32-bit words `x[0..3]`: the state of a round (R150), or a window of the key schedule (R138). -/
structure FourWords where
  x0 : Word
  x1 : Word
  x2 : Word
  x3 : Word
deriving DecidableEq, Repr

/-- `x[j]`. -/
def wordAtPosition (x : FourWords) (j : Fin 4) : Word :=
  match j with
  | 0 => x.x0
  | 1 => x.x1
  | 2 => x.x2
  | 3 => x.x3

/-- `x` with `v` in place of `x[j]`. -/
def replaceWord (x : FourWords) (j : Fin 4) (v : Word) : FourWords :=
  match j with
  | 0 => { x with x0 := v }
  | 1 => { x with x1 := v }
  | 2 => { x with x2 := v }
  | 3 => { x with x3 := v }

/-- The four words of a port. -/
def wordsOf (d : Block) : FourWords := ⟨wordOf d 0, wordOf d 1, wordOf d 2, wordOf d 3⟩

/-- The port value of four words. -/
def packWords (x : FourWords) : Block := w4 x.x0 x.x1 x.x2 x.x3

/-- The 8-bit operand, `DIN[7:0]` (R48). -/
def lowByte (d : Block) : Byte := d.extractLsb' 0 8

/-- The 32-bit operand, `DIN[31:0]` (R48). -/
def lowWord (d : Block) : Word := d.extractLsb' 0 32

/-- `zext_128` of a byte (R16). -/
def zextByte (b : Byte) : Block := b.setWidth 128

/-- `zext_128` of a word (R16). -/
def zextWord (w : Word) : Block := w.setWidth 128

/-! ## Uses of the fields of a command word (R64) -/

/-- `idx[1:0]`: the position of `RNDX`, and `idx mod 4` of `RND`. -/
def positionOf (idx : Index) : Fin 4 := ⟨(idx.extractLsb' 0 2).toNat, (idx.extractLsb' 0 2).isLt⟩

/-- `keys[idx]`: an index into a file of 32 words, always in range (R72). -/
def wordAt (keys : Vector Word 32) (idx : Index) : Word := keys[idx.toNat]'idx.isLt

/-- The Round Key Set that `m` selects (R62). -/
def keySet (ks : RoundKeySet) (c : Context) : Vector Word 32 :=
  match ks with
  | .enc => c.erk
  | .dec => c.drk

/-- The key operand: `DIN`, or 128 zero bits with the no-key flag (R137, R139). -/
def keyOperand (src : KeySource) (din : Block) : Block :=
  match src with
  | .din => din
  | .zero => 0

end Sys2Proof.Machine
end

