-- ==== Sys2Proof/Machine/Ops.lean ====
section
/-! DEFINITION. The shared operations of a transaction: how it ends, its one context check, the writes of the Cipher Context, and what the host does between transactions (rules R16, R49, R60, R204, R209 to R211, R230).
There is no memory to operate on (R40). -/

namespace Sys2Proof.Machine

/-- The outcome of a step of this machine. -/
abbrev StepOutcome := Host.Outcome State Fault Refusal

/-! ## How a transaction ends -/

/-- Put a transaction's result on `DOUT` and `STATUS`, and change nothing else. -/
def State.answered (s : State) (dout : Block) (status : Status) : State :=
  { s with answer := some { dout := dout, status := status } }

/-- Write the Cipher Context, all at once (R49). -/
def State.withContext (s : State) (c : Context) : State := { s with ctx := c }

/-- `return v`: the transaction ends with `STATUS = OK` and `DOUT = v` (R16). -/
def complete (s : State) (v : Block) : StepOutcome := .next (s.answered v .ok)

/-- `raise st`: the transaction ends now with `STATUS = st`, `DOUT = 0` and no write to any state element (R16, R204).
This is all there is to taking an exception: nothing is saved, no mode changes, control goes nowhere (R210).
There is no return from one, no error is sticky, and the next transaction runs as if this one had not been issued (R211). -/
def raise (s : State) (st : Status) : StepOutcome := .next (s.answered 0 st)

/-- The context check of `RND`, `CRYPT`, `RDRK`: `ContextInvalid` while `VALID = 0` (R202, R209). -/
def requireReady (s : State) (body : StepOutcome) : StepOutcome :=
  if s.ctx.stat.valid then body else raise s .contextInvalid

/-- The context check of `KEXP`: `ContextLocked` while `VALID = 1` (R136, R203, R209). -/
def requireUninitialized (s : State) (body : StepOutcome) : StepOutcome :=
  if s.ctx.stat.valid then raise s .contextLocked else body

/-! ## Writes of the Cipher Context -/

/-- What a successful `KEXP` writes, given the 32 round keys: `ERK[r] <- rk[r]`, `DRK[r] <- rk[31 - r]`, `VALID <- 1`, `BACKEND <- SBOX_IMPL` (R135). -/
def readyContext (rk : Vector Word 32) : Context where
  erk := rk
  drk := rk.reverse
  stat := ctxStatReady

/-- What `CLR` and reset write: zero everywhere (R184, R230). -/
def clearedContext : Context where
  erk := Vector.replicate 32 0
  drk := Vector.replicate 32 0
  stat := ctxStatClear

/-! ## What the host does (R12) -/

/-- The host presents the next transaction of its list on `CMD`, `DIN`, `RKIN` (R60). -/
def State.present (s : State) (r : Request) (rest : List HostEvent) : State :=
  { s with port := r, pending := rest }

/-- The host asserts `RESET`, the next event of its list: the state becomes the reset state (R230), no transaction runs and none is answered (R231). -/
def State.resetAsserted (s : State) (rest : List HostEvent) : State :=
  { s with ctx := clearedContext, pending := rest, answer := none }

/-- The host does nothing: the block is idle with its state held (R215), and the last answer can no longer be read (R30). -/
def State.idle (s : State) : State := { s with answer := none }

end Sys2Proof.Machine
end

