-- ==== Sys2Proof/Machine/ContextControl.lean ====
section
/-! DEFINITION. The Cipher Context commands `RDRK`, `RDST`, `CLR` (rules R180 to R184). -/

namespace Sys2Proof.Machine

/-- `RDRK.E i`, `RDRK.D i` (R182). -/
def execRdrk (ks : RoundKeySet) (idx : Index) (s : State) : StepOutcome :=
  requireReady s (complete s (zextWord (wordAt (keySet ks s.ctx) idx)))

/-- `RDST` (R183). -/
def execRdst (s : State) : StepOutcome := complete s ((ctxStatBits s.ctx.stat).setWidth 128)

/-- `CLR` (R184). -/
def execClr (s : State) : StepOutcome := complete (s.withContext clearedContext) 0

end Sys2Proof.Machine
end

