-- ==== Sys2Proof/Machine/Sbox.lean ====
section
/-! DEFINITION. The S-Box: the table, `tau`, the algebraic and the isomorphic forms, and the commands `SBOX`, `SBOX32` (rules R90 to R98). -/

namespace Sys2Proof.Machine

/-! ## The table (R91) -/

/-- The 256 entries, row = high nibble, column = low nibble, as R91 prints them. -/
def sboxTable : Vector (Vector Byte 16) 16 :=
  #v[#v[0xD6, 0x90, 0xE9, 0xFE, 0xCC, 0xE1, 0x3D, 0xB7, 0x16, 0xB6, 0x14, 0xC2, 0x28, 0xFB, 0x2C, 0x05],
     #v[0x2B, 0x67, 0x9A, 0x76, 0x2A, 0xBE, 0x04, 0xC3, 0xAA, 0x44, 0x13, 0x26, 0x49, 0x86, 0x06, 0x99],
     #v[0x9C, 0x42, 0x50, 0xF4, 0x91, 0xEF, 0x98, 0x7A, 0x33, 0x54, 0x0B, 0x43, 0xED, 0xCF, 0xAC, 0x62],
     #v[0xE4, 0xB3, 0x1C, 0xA9, 0xC9, 0x08, 0xE8, 0x95, 0x80, 0xDF, 0x94, 0xFA, 0x75, 0x8F, 0x3F, 0xA6],
     #v[0x47, 0x07, 0xA7, 0xFC, 0xF3, 0x73, 0x17, 0xBA, 0x83, 0x59, 0x3C, 0x19, 0xE6, 0x85, 0x4F, 0xA8],
     #v[0x68, 0x6B, 0x81, 0xB2, 0x71, 0x64, 0xDA, 0x8B, 0xF8, 0xEB, 0x0F, 0x4B, 0x70, 0x56, 0x9D, 0x35],
     #v[0x1E, 0x24, 0x0E, 0x5E, 0x63, 0x58, 0xD1, 0xA2, 0x25, 0x22, 0x7C, 0x3B, 0x01, 0x21, 0x78, 0x87],
     #v[0xD4, 0x00, 0x46, 0x57, 0x9F, 0xD3, 0x27, 0x52, 0x4C, 0x36, 0x02, 0xE7, 0xA0, 0xC4, 0xC8, 0x9E],
     #v[0xEA, 0xBF, 0x8A, 0xD2, 0x40, 0xC7, 0x38, 0xB5, 0xA3, 0xF7, 0xF2, 0xCE, 0xF9, 0x61, 0x15, 0xA1],
     #v[0xE0, 0xAE, 0x5D, 0xA4, 0x9B, 0x34, 0x1A, 0x55, 0xAD, 0x93, 0x32, 0x30, 0xF5, 0x8C, 0xB1, 0xE3],
     #v[0x1D, 0xF6, 0xE2, 0x2E, 0x82, 0x66, 0xCA, 0x60, 0xC0, 0x29, 0x23, 0xAB, 0x0D, 0x53, 0x4E, 0x6F],
     #v[0xD5, 0xDB, 0x37, 0x45, 0xDE, 0xFD, 0x8E, 0x2F, 0x03, 0xFF, 0x6A, 0x72, 0x6D, 0x6C, 0x5B, 0x51],
     #v[0x8D, 0x1B, 0xAF, 0x92, 0xBB, 0xDD, 0xBC, 0x7F, 0x11, 0xD9, 0x5C, 0x41, 0x1F, 0x10, 0x5A, 0xD8],
     #v[0x0A, 0xC1, 0x31, 0x88, 0xA5, 0xCD, 0x7B, 0xBD, 0x2D, 0x74, 0xD0, 0x12, 0xB8, 0xE5, 0xB4, 0xB0],
     #v[0x89, 0x69, 0x97, 0x4A, 0x0C, 0x96, 0x77, 0x7E, 0x65, 0xB9, 0xF1, 0x09, 0xC5, 0x6E, 0xC6, 0x84],
     #v[0x18, 0xF0, 0x7D, 0xEC, 0x3A, 0xDC, 0x4D, 0x20, 0x79, 0xEE, 0x5F, 0x3E, 0xD7, 0xCB, 0x39, 0x48]]

/-- `S(b) = SBOX[b]`: the entry in row `b[7:4]`, column `b[3:0]` (R90, R91).
The same for every `SBOX_IMPL` (R90, U3). -/
def sbox (b : Byte) : Byte :=
  (sboxTable[(b.extractLsb' 4 4).toNat]'(b.extractLsb' 4 4).isLt)[(b.extractLsb' 0 4).toNat]'(b.extractLsb' 0 4).isLt

/-- `tau(w)`, the source's `SBox32`: `S` on each of the four bytes, in place (R93). -/
def tau (w : Word) : Word :=
  sbox (w.extractLsb' 24 8) ++ sbox (w.extractLsb' 16 8) ++ sbox (w.extractLsb' 8 8) ++ sbox (w.extractLsb' 0 8)

/-! ## Fields of 256 elements (R94, R96) -/

/-- `v` times `x` modulo `x^8 + poly`. -/
def gfDouble (poly v : Byte) : Byte := if v.getMsbD 0 then (v <<< 1) ^^^ poly else v <<< 1

/-- The sum of `v * x^i` over the bits `i < n` of `c`, by Horner from bit `n - 1` down. -/
def gfMulBits (poly v c : Byte) : Nat → Nat → Byte
  | _, 0 => 0
  | i, n + 1 => (if c.getLsbD i then v else 0) ^^^ gfDouble poly (gfMulBits poly v c (i + 1) n)

/-- Multiplication of bytes as polynomials over GF(2), bit `i` the coefficient of `x^i`, modulo `x^8 + poly` (R94). -/
def gfMul (poly v c : Byte) : Byte := gfMulBits poly v c 0 8

/-- `v` to the power `2^n - 1`. -/
def gfPowOnes (poly v : Byte) : Nat → Byte
  | 0 => 1
  | n + 1 => gfMul poly v (gfMul poly (gfPowOnes poly v n) (gfPowOnes poly v n))

/-- The multiplicative inverse, with `0` sent to `0` (R94, R96): the power 254 of a field of 256 elements. -/
def gfInv (poly v : Byte) : Byte := gfMul poly (gfPowOnes poly v 7) (gfPowOnes poly v 7)

/-- The SM4 field: modulo `x^8 + x^7 + x^6 + x^5 + x^4 + x^2 + 1`, bit pattern `0x1F5` (R94). -/
def polySm4 : Byte := 0xF5

/-- The AES field: modulo `x^8 + x^4 + x^3 + x + 1`, bit pattern `0x11B` (R95). -/
def polyAes : Byte := 0x1B

/-- The affine map's linear part `A` of R94. -/
def linearSm4 (v : Byte) : Byte := v ^^^ rol8 v 1 ^^^ rol8 v 3 ^^^ rol8 v 6 ^^^ rol8 v 7

/-- The algebraic form `S(b) = A(inv_SM4(A(b) ^ C)) ^ C` with `C = 0xD3` (R94). -/
def sboxAlgebraic (b : Byte) : Byte := linearSm4 (gfInv polySm4 (linearSm4 b ^^^ 0xD3)) ^^^ 0xD3

/-! ## The isomorphic implementations (R95, R96) -/

/-- `mat(c0, ..., c7) · v`: the exclusive-or of those `c_i` for which bit `i` of `v` is 1 (R96). -/
def matMul (cols : Vector Byte 8) (v : Byte) : Byte :=
  (if v.getLsbD 0 then cols[0] else 0) ^^^ (if v.getLsbD 1 then cols[1] else 0) ^^^
  (if v.getLsbD 2 then cols[2] else 0) ^^^ (if v.getLsbD 3 then cols[3] else 0) ^^^
  (if v.getLsbD 4 then cols[4] else 0) ^^^ (if v.getLsbD 5 then cols[5] else 0) ^^^
  (if v.getLsbD 6 then cols[6] else 0) ^^^ (if v.getLsbD 7 then cols[7] else 0)

/-- `AffIn` of both variants (R96). -/
def affIn (b : Byte) : Byte := matMul #v[0x8C, 0x30, 0x85, 0x9F, 0xDC, 0x2E, 0xC5, 0x08] b ^^^ 0x3E

/-- `AffOut` of `ISO_INV` (R96). -/
def affOutInv (z : Byte) : Byte := matMul #v[0xCB, 0x23, 0x74, 0x8A, 0x55, 0x7F, 0x11, 0xEB] z ^^^ 0xD3

/-- `AffOut` of `ISO_AES` (R96). -/
def affOutAes (z : Byte) : Byte := matMul #v[0xB8, 0xCA, 0x3E, 0x67, 0xE0, 0x50, 0x9D, 0xC0] z ^^^ 0x6C

/-- `Aaes`, the linear part of the AES byte substitution (R96). -/
def linearAes (v : Byte) : Byte := v ^^^ rol8 v 1 ^^^ rol8 v 2 ^^^ rol8 v 3 ^^^ rol8 v 4

/-- `SB_AES`, the AES byte substitution (R96). -/
def sboxAes (v : Byte) : Byte := linearAes (gfInv polyAes v) ^^^ 0x63

/-- The S-Box as each strategy computes it: the table, or affine-in, nonlinear primitive, affine-out (R7, R95, R96).
The "permute" step of the source is empty for a byte-wise primitive (R95, C6). -/
def sboxBy (impl : SboxImpl) (b : Byte) : Byte :=
  match impl with
  | .table => sbox b
  | .isoAes => affOutAes (sboxAes (affIn b))
  | .isoInv => affOutInv (gfInv polyAes (affIn b))

/-! ## Commands -/

/-- `SBOX` (R97). -/
def execSbox (s : State) : StepOutcome := complete s (zextByte (sbox (lowByte s.port.din)))

/-- `SBOX32` (R98). -/
def execSbox32 (s : State) : StepOutcome := complete s (zextWord (tau (lowWord s.port.din)))

end Sys2Proof.Machine
end

