-- ==== Sys2Proof/Machine/Diffusion.lean ====
section
/-! DEFINITION. Linear diffusion: `L`, `Ltag`, `T`, `Ttag`, and the commands `LENC`, `LKEY`, `TENC`, `TKEY` (rules R110 to R119). -/

namespace Sys2Proof.Machine

/-- `L(t)`, five terms (R110). -/
def lenc (t : Word) : Word := t ^^^ rol32 t 2 ^^^ rol32 t 10 ^^^ rol32 t 18 ^^^ rol32 t 24

/-- `Ltag(t)`, three terms (R112). -/
def lkey (t : Word) : Word := t ^^^ rol32 t 13 ^^^ rol32 t 23

/-- `T(w) = L(tau(w))` (R114). -/
def tenc (w : Word) : Word := lenc (tau w)

/-- `Ttag(w) = Ltag(tau(w))` (R115). -/
def tkey (w : Word) : Word := lkey (tau w)

/-- `LENC` (R116). -/
def execLenc (s : State) : StepOutcome := complete s (zextWord (lenc (lowWord s.port.din)))

/-- `LKEY` (R117). -/
def execLkey (s : State) : StepOutcome := complete s (zextWord (lkey (lowWord s.port.din)))

/-- `TENC` (R118). -/
def execTenc (s : State) : StepOutcome := complete s (zextWord (tenc (lowWord s.port.din)))

/-- `TKEY` (R119). -/
def execTkey (s : State) : StepOutcome := complete s (zextWord (tkey (lowWord s.port.din)))

end Sys2Proof.Machine
end

