-- ==== Sys2Proof/Machine/Round.lean ====
section
/-! DEFINITION. The round function and the commands `RNDX`, `RND`, `REV` (rules R150 to R155). -/

namespace Sys2Proof.Machine

/-- `Round(x, pos, rk)`: the word at `pos` is replaced by itself exclusive-or `L(tau(...))` of the other three and the round key, in place (R150, R151, C1).
Positions count modulo 4. -/
def round (x : FourWords) (pos : Fin 4) (rk : Word) : FourWords :=
  replaceWord x pos (wordAtPosition x pos ^^^
    tenc (wordAtPosition x (pos + 1) ^^^ wordAtPosition x (pos + 2) ^^^ wordAtPosition x (pos + 3) ^^^ rk))

/-- Four words in reverse order (R155, R170). -/
def reverseWords (x : FourWords) : FourWords := ⟨x.x3, x.x2, x.x1, x.x0⟩

/-- `RNDX pos` (R153): position and round key are explicit. -/
def execRndx (idx : Index) (s : State) : StepOutcome :=
  complete s (packWords (round (wordsOf s.port.din) (positionOf idx) s.port.rkin))

/-- `RND.E r`, `RND.D r` (R154): the round key is the context's, the position is `r mod 4`. -/
def execRnd (ks : RoundKeySet) (idx : Index) (s : State) : StepOutcome :=
  requireReady s
    (complete s (packWords (round (wordsOf s.port.din) (positionOf idx) (wordAt (keySet ks s.ctx) idx))))

/-- `REV` (R155). -/
def execRev (s : State) : StepOutcome := complete s (packWords (reverseWords (wordsOf s.port.din)))

end Sys2Proof.Machine
end

