-- ==== Sys2Proof/Machine/Crypt.lean ====
section
/-! DEFINITION. The single-block core and the command `CRYPT` (rules R170 to R173). -/

namespace Sys2Proof.Machine

/-- The four words after rounds `0` to `n - 1`, round `r` at position `r mod 4` with round key `rk[r]` (R170). -/
def cryptRounds (rk : Vector Word 32) (x : FourWords) : (n : Nat) → n ≤ 32 → FourWords
  | 0, _ => x
  | n + 1, h => round (cryptRounds rk x n (Nat.le_of_succ_le h)) (Fin.ofNat 4 n) rk[n]

/-- `Crypt(block, rk[0..31])`: 32 rounds, then the words in reverse order (R170). -/
def crypt (block : Block) (rk : Vector Word 32) : Block :=
  packWords (reverseWords (cryptRounds rk (wordsOf block) 32 (Nat.le_refl 32)))

/-- `CRYPT.E`, `CRYPT.D` (R172). -/
def execCrypt (ks : RoundKeySet) (s : State) : StepOutcome :=
  requireReady s (complete s (crypt s.port.din (keySet ks s.ctx)))

end Sys2Proof.Machine
end

