-- ==== Sys2Proof/Machine/KeySchedule.lean ====
section
/-! DEFINITION. The key schedule: `FK`, `CK`, `KeyExpand`, and the commands `KINIT`, `KRND`, `KEXP` (rules R130 to R139). -/

namespace Sys2Proof.Machine

/-- `FK[0..3]` (R131). -/
def fk : FourWords := ⟨0xA3B1BAC6, 0x56AA3350, 0x677D9197, 0xB27022DC⟩

/-- `CK[0..31]`, as R132 prints them. -/
def ck : Vector Word 32 :=
  (#v[0x00070E15, 0x1C232A31, 0x383F464D, 0x545B6269, 0x70777E85, 0x8C939AA1, 0xA8AFB6BD, 0xC4CBD2D9] : Vector Word 8) ++
  (#v[0xE0E7EEF5, 0xFC030A11, 0x181F262D, 0x343B4249, 0x50575E65, 0x6C737A81, 0x888F969D, 0xA4ABB2B9] : Vector Word 8) ++
  (#v[0xC0C7CED5, 0xDCE3EAF1, 0xF8FF060D, 0x141B2229, 0x30373E45, 0x4C535A61, 0x686F767D, 0x848B9299] : Vector Word 8) ++
  (#v[0xA0A7AEB5, 0xBCC3CAD1, 0xD8DFE6ED, 0xF4FB0209, 0x10171E25, 0x2C333A41, 0x484F565D, 0x646B7279] : Vector Word 8)

/-- The words `k[0..3]`: the key's words exclusive-or `FK` (R133, R137). -/
def keyStart (key : Block) : FourWords :=
  ⟨wordOf key 0 ^^^ fk.x0, wordOf key 1 ^^^ fk.x1, wordOf key 2 ^^^ fk.x2, wordOf key 3 ^^^ fk.x3⟩

/-- One round on the rolling window `k[r..r+3]`: the window slides, and the new word enters last (R133, R138). -/
def keyRound (k : FourWords) (c : Word) : FourWords :=
  ⟨k.x1, k.x2, k.x3, k.x0 ^^^ tkey (k.x1 ^^^ k.x2 ^^^ k.x3 ^^^ c)⟩

/-- The window `k[n..n+3]`, after rounds `0` to `n - 1` (R133); `n` stops at 32, since there is no `CK[32]` (R134). -/
def keyWindow (key : Block) : (n : Nat) → n ≤ 32 → FourWords
  | 0, _ => keyStart key
  | n + 1, h => keyRound (keyWindow key n (Nat.le_of_succ_le h)) ck[n]

/-- `KeyExpand(key)`: round key `r` is `k[r+4]`, the last word of the window after round `r` (R133). -/
def keyExpand (key : Block) : Vector Word 32 :=
  Vector.ofFn fun r => (keyWindow key (r.val + 1) r.isLt).x3

/-- `KINIT` and `KINIT.Z` (R137). -/
def execKinit (src : KeySource) (s : State) : StepOutcome :=
  complete s (packWords (keyStart (keyOperand src s.port.din)))

/-- `KRND r` (R138). -/
def execKrnd (idx : Index) (s : State) : StepOutcome :=
  complete s (packWords (keyRound (wordsOf s.port.din) (wordAt ck idx)))

/-- `KEXP` and `KEXP.Z` (R136, R139): the check, then all the writes, then `return 0`. -/
def execKexp (src : KeySource) (s : State) : StepOutcome :=
  requireUninitialized s
    (complete (s.withContext (readyContext (keyExpand (keyOperand src s.port.din)))) 0)

end Sys2Proof.Machine
end

