-- ==== Sys2Proof/Machine/Dispatch.lean ====
section
/-! DEFINITION. One arm per command (rule R66). -/

namespace Sys2Proof.Machine

def exec (i : Instr) (s : State) : Host.Outcome State Fault Refusal :=
  match i with
  -- the S-Box and the linear diffusion
  | .sbox => Sys2Proof.Machine.execSbox s
  | .sbox32 => Sys2Proof.Machine.execSbox32 s
  | .lenc => Sys2Proof.Machine.execLenc s
  | .lkey => Sys2Proof.Machine.execLkey s
  | .tenc => Sys2Proof.Machine.execTenc s
  | .tkey => Sys2Proof.Machine.execTkey s
  -- the key schedule
  | .kinit src => Sys2Proof.Machine.execKinit src s
  | .krnd idx => Sys2Proof.Machine.execKrnd idx s
  | .kexp src => Sys2Proof.Machine.execKexp src s
  -- the round function and the single-block core
  | .rndx idx => Sys2Proof.Machine.execRndx idx s
  | .rnd keys idx => Sys2Proof.Machine.execRnd keys idx s
  | .rev => Sys2Proof.Machine.execRev s
  | .crypt keys => Sys2Proof.Machine.execCrypt keys s
  -- the Cipher Context
  | .rdrk keys idx => Sys2Proof.Machine.execRdrk keys idx s
  | .rdst => Sys2Proof.Machine.execRdst s
  | .clr => Sys2Proof.Machine.execClr s

end Sys2Proof.Machine
end

