-- ==== Sys2Proof/Machine/Step.lean ====
section
/-! DEFINITION. One step: the block meets the next thing the host does (rules R9, R12, R50, R60, R61, R67, R231). -/

namespace Sys2Proof.Machine

/-- One step of the machine.
The host's next event is taken from the head of `pending`: a transaction is decoded and executed, atomically and to completion (R9, R49), a reset zeroes the context (R230), and with nothing pending the block is idle (R215).
The command word is decoded before anything else is looked at (R201, R209), and an illegal word raises `IllegalCommand` whatever `DIN`, `RKIN` and the state are (R67). -/
def step (s : State) : Host.Outcome State Fault Refusal :=
  match s.pending with
  | [] => .next s.idle
  | .reset :: rest => .next (s.resetAsserted rest)
  | .transaction r :: rest =>
    match decode r.cmd with
    | .ok i => exec i (s.present r rest)
    | .error _ => raise (s.present r rest) .illegalCommand

/-- The host's next transaction is the command word `w`, with the operands that stand on `DIN` and `RKIN` now.
This is how a command comes to the block: it fetches none (R27), the host presents it (assumption log 3).
A number that does not fit 16 bits is cut to `CMD`'s width. -/
def State.withFetchWord (s : State) (_nbits w : Nat) : State :=
  { s with pending :=
      .transaction { cmd := BitVec.ofNat 16 w, din := s.port.din, rkin := s.port.rkin } :: s.pending }

end Sys2Proof.Machine
end

