-- ==== Sys2Proof/Safety.lean ====
section
/-! DEFINITION. The terms claims are stated in: the two states of the Cipher Context and its invariant (R23, R26, R180), the kinds of commands, the operand widths of R48, and a host that feeds each result back (R172, R138).
The machine never stops by itself (R61, R239), so a run is safe when every state of it keeps the invariant. -/

namespace Sys2Proof.Machine

/-! ## The Cipher Context -/

/-- `Uninitialized`: `VALID = 0`, `BACKEND = 0`, all round keys zero (R23, R26, R180). -/
def Context.Uninitialized (c : Context) : Prop :=
  c.stat.valid = false ∧ ctxStatBits c.stat = 0 ∧ ∀ (i : Nat) (_ : i < 32), c.erk[i] = 0 ∧ c.drk[i] = 0

/-- `Ready`: `VALID = 1`, `BACKEND` is the number of `SBOX_IMPL`, the encryption set is derived from some key, and the decryption set is it in reverse (R23, R26, R180). -/
def Context.Ready (c : Context) : Prop :=
  c.stat.valid = true ∧ c.stat.backend = Config.sboxImpl ∧ (∃ key, c.erk = keyExpand key) ∧
    ∀ (i : Nat) (_ : i < 32), c.drk[i] = c.erk[31 - i]

/-- The invariant of the block: the context is in one of its two states (R180), with all that R23 and R26 say of each. -/
def State.Inv (s : State) : Prop := s.ctx.Uninitialized ∨ s.ctx.Ready

/-! ## Kinds of words and commands -/

/-- The word is no command's (R67). -/
def IllegalCommandWord (w : CommandWord) : Prop := ∃ e, decode w = .error e

/-- The command neither writes nor destroys the context: all but `KEXP` and `CLR` (R49). -/
def ReadOnly : Instr → Prop
  | .kexp _ | .clr => False
  | .sbox | .sbox32 | .lenc | .lkey | .tenc | .tkey | .kinit _ | .krnd _ | .rndx _ | .rnd _ _ | .rev
  | .crypt _ | .rdrk _ _ | .rdst => True

/-- The commands that read a Round Key Set: `RND`, `CRYPT`, `RDRK` (R202). -/
def ReadsRoundKeys : Instr → Prop
  | .rnd _ _ | .crypt _ | .rdrk _ _ => True
  | .sbox | .sbox32 | .lenc | .lkey | .tenc | .tkey | .kinit _ | .krnd _ | .kexp _ | .rndx _ | .rev
  | .rdst | .clr => False

/-- The ten commands that neither read nor write the context (R180, glossary). -/
def ContextFree : Instr → Prop
  | .sbox | .sbox32 | .lenc | .lkey | .tenc | .tkey | .kinit _ | .krnd _ | .rndx _ | .rev => True
  | .kexp _ | .rnd _ _ | .crypt _ | .rdrk _ _ | .rdst | .clr => False

/-! ## Operand widths (R48) -/

/-- The bits of `DIN` that are the command's input operand.
With the no-key flag `DIN` is ignored (R137, R139). -/
def dinMask : Instr → Block
  | .sbox => 0xFF
  | .sbox32 | .lenc | .lkey | .tenc | .tkey => 0xFFFFFFFF
  | .kinit .din | .krnd _ | .rndx _ | .rnd _ _ | .rev | .crypt _ | .kexp .din => BitVec.allOnes 128
  | .kinit .zero | .kexp .zero | .rdrk _ _ | .rdst | .clr => 0

/-- The bits of `RKIN` that are the command's input operand. -/
def rkinMask : Instr → Word
  | .rndx _ => BitVec.allOnes 32
  | .sbox | .sbox32 | .lenc | .lkey | .tenc | .tkey | .kinit _ | .krnd _ | .kexp _ | .rnd _ _ | .rev
  | .crypt _ | .rdrk _ _ | .rdst | .clr => 0

/-- The bits of `DOUT` that are the command's output operand. -/
def doutMask : Instr → Block
  | .sbox => 0xFF
  | .sbox32 | .lenc | .lkey | .tenc | .tkey | .rdrk _ _ => 0xFFFFFFFF
  | .kinit _ | .krnd _ | .rndx _ | .rnd _ _ | .rev | .crypt _ => BitVec.allOnes 128
  | .rdst => 0x7
  | .kexp _ | .clr => 0

/-! ## A host that feeds each `DOUT` back as the next `DIN` (test programs P2, P3) -/

/-- The host puts the answer just given on `DIN`. -/
def State.feedBack (s : State) : State :=
  match s.answer with
  | some a => { s with port := { s.port with din := a.dout } }
  | none => s

/-- Run the commands in order, each on the previous `DOUT`. -/
def runFeedingBack : List Instr → State → Host.Outcome State Fault Refusal
  | [], s => .next s
  | i :: is, s =>
    match exec i s with
    | .next t => runFeedingBack is t.feedBack
    | .fault f => .fault f
    | .refused r => .refused r

/-- `RND r` for `r = 0 .. 31`, then `REV` (R172). -/
def roundsThenReverse (ks : RoundKeySet) : List Instr :=
  (List.range 32).map (fun r => .rnd ks (BitVec.ofNat 5 r)) ++ [.rev]

/-- `KINIT`, then `KRND 0` to `KRND r` (R138). -/
def keyRoundsUpTo (src : KeySource) (r : Nat) : List Instr :=
  .kinit src :: (List.range (r + 1)).map (fun n => .krnd (BitVec.ofNat 5 n))

end Sys2Proof.Machine
end

