-- ==== Sys2Proof/Certificates/Slice0/Obligations.lean ====
section
/-! DEFINITION. The statements for the provers.
Each docstring names the rule of spec/ it formalises, or the section it rests on.
A conclusion `exec i s = .next { s with answer := … }` is at once the result, the completion and the whole frame of a command: no round key, no bit of `CTXSTAT`, no port and no pending event changes. -/

open Sys2Proof Sys2Proof.Machine

/-! ## Reset, and what a step does with the host's next event -/

/-- R31: after reset every bit of state is zero, and this equals the state after `CLR`. -/
def Obligations.ResetStateIsZeroAndEqualsCleared : Prop :=
  (∀ (i : Nat) (_ : i < 32), State.reset.ctx.erk[i] = 0 ∧ State.reset.ctx.drk[i] = 0) ∧
  State.reset.ctx.stat.valid = false ∧ ctxStatBits State.reset.ctx.stat = 0 ∧
  ∀ s : State, exec .clr s = .next { s with ctx := State.reset.ctx, answer := some { dout := 0, status := .ok } }

/-- R230: `RESET` zeroes the context from every state, and leaves what `CLR` leaves. -/
def Obligations.ResetEventZeroesTheContext : Prop :=
  ∀ (s : State) (rest : List HostEvent), s.pending = .reset :: rest →
    ∃ t, step s = .next t ∧ t.pending = rest ∧
      (∀ (i : Nat) (_ : i < 32), t.ctx.erk[i] = 0 ∧ t.ctx.drk[i] = 0) ∧ ctxStatBits t.ctx.stat = 0 ∧
      ∃ u, exec .clr s = .next u ∧ u.ctx = t.ctx

/-- A step runs the decoded command: the next transaction's port values are presented, its event is taken from the host's list, and the command executes in that state (20_memory.md section 6, 30_encoding.md section 1; the list is the model's choice, log entry 1). -/
def Obligations.StepRunsTheDecodedCommand : Prop :=
  ∀ (s : State) (r : Request) (rest : List HostEvent) (i : Instr),
    s.pending = .transaction r :: rest → decode r.cmd = .ok i →
      step s = exec i { s with port := r, pending := rest }

/-- Between transactions the block is idle with its state held (60_exceptions.md section 6); that a step with nothing pending leaves no answer to read is the model's choice (log entry 2). -/
def Obligations.IdleStepHoldsTheContext : Prop :=
  ∀ s : State, s.pending = [] → step s = .next { s with answer := none }

/-- R201: a word that matches no row of the opcode map gives `IllegalCommand`, decided from `CMD` alone, and nothing is recorded. -/
def Obligations.WordOutsideTheMapAnswersIllegalCommand : Prop :=
  statusCode .illegalCommand = 1 ∧
  ∀ (s : State) (r : Request) (rest : List HostEvent),
    s.pending = .transaction r :: rest → (∀ row ∈ opcodeTable, row.selects r.cmd = false) →
      step s = .next { s with port := r, pending := rest, answer := some { dout := 0, status := .illegalCommand } }

/-- How a command word comes to the block in this model: the host presents it next, with the operands that stand on `DIN` and `RKIN` (log entry 3; the block fetches nothing, 10_state.md section 4). -/
def Obligations.FetchWordIsRunByTheNextStep : Prop :=
  ∀ (s : State) (nbits w : Nat) (i : Instr), decodeTableWord nbits w = some i →
    step (s.withFetchWord nbits w) =
      exec i { s with port := { cmd := BitVec.ofNat 16 w, din := s.port.din, rkin := s.port.rkin } }

/-! ## Encoding -/

/-- Decoding an encoded well-formed command gives it back, with every modifier and every index (30_encoding.md sections 2 and 4). -/
def Obligations.DecodeInvertsEncode : Prop := ∀ i : Instr, i.WellFormed → decode (encode i) = .ok i

/-- A legal word has one meaning: it is the encoding of the command it decodes to, which is well formed (30_encoding.md sections 2 and 4). -/
def Obligations.EncodeInvertsDecode : Prop :=
  ∀ (w : CommandWord) (i : Instr), decode w = .ok i → i.WellFormed ∧ encode i = w

/-- R66: a word selects the row with `(w AND mask) = match`, the rows are disjoint, 179 words are legal, and a legal word holds the row's `op` and the command's own `m` and `idx`, each zero where the row has 0. -/
def Obligations.OpcodeMapSelectsTheCommand : Prop :=
  (∀ (w : CommandWord), ∀ row ∈ opcodeTable, row.selects w = true →
    ∃ i, decode w = .ok i ∧ i.mnemonic = row.mnemonic) ∧
  (∀ (w : CommandWord) (i : Instr), decode w = .ok i →
    ∃ row ∈ opcodeTable, row.selects w = true ∧ row.mnemonic = i.mnemonic) ∧
  (∀ (w : CommandWord), ∀ row ∈ opcodeTable, ∀ row' ∈ opcodeTable,
    row.selects w = true → row'.selects w = true → row = row') ∧
  (∀ (w : CommandWord) (i : Instr), decode w = .ok i →
    opField w = opcode i ∧ mField w = modifier i ∧ zField w = 0 ∧ idxField w = index i) ∧
  opcodeTable.length = 16 ∧
  ∃ legal : List CommandWord, legal.Nodup ∧ legal.length = 179 ∧ ∀ w, w ∈ legal ↔ ∃ i, decode w = .ok i

/-- Words written out from the map and the assembler examples decode to the commands they stand for, and others are refused by name (30_encoding.md sections 4 to 6). -/
def Obligations.SampleWordsDecode : Prop :=
  decode 0b0001000000000000 = .ok .sbox ∧ decode 0b0001001100000000 = .ok .lkey ∧
  decode 0b0010000100000101 = .ok (.krnd 5) ∧ decode 0b0010001010000000 = .ok (.kexp .zero) ∧
  decode 0b0011000000000011 = .ok (.rndx 3) ∧ decode 0b0011000110000101 = .ok (.rnd .dec 5) ∧
  decode 0b0011001110000000 = .ok (.crypt .dec) ∧ decode 0b0100000000011111 = .ok (.rdrk .enc 31) ∧
  decode 0b0100001000000000 = .ok .clr ∧
  decode 0x0000 = .error .opcodeNotInTable ∧ decode 0x1001 = .error .indexNotUsed ∧
  decode 0x1080 = .error .modifierNotUsed ∧ decode 0x3360 = .error .reservedBitsSet ∧
  decode 0x3004 = .error .positionTooLarge

/-! ## The functions -/

/-- A left rotation moves bit `i` to bit `(i + n) mod` the width (00_scope.md section 6). -/
def Obligations.RotationMovesEachBit : Prop :=
  (∀ (v : Word) (n i : Nat), 0 < n → n < 32 → i < 32 → (rol32 v n).getLsbD ((i + n) % 32) = v.getLsbD i) ∧
  (∀ (b : Byte) (n i : Nat), 0 < n → n < 8 → i < 8 → (rol8 b n).getLsbD ((i + n) % 8) = b.getLsbD i)

/-- The lanes of a port: four bytes form a word big-endian, and four words form the port (00_scope.md section 6, 20_memory.md section 3). -/
def Obligations.PortLanesAreBigEndian : Prop :=
  (∀ (d : Block) (j : Fin 4), wordOf d j =
    byteOf d ⟨4 * j.val, by omega⟩ ++ byteOf d ⟨4 * j.val + 1, by omega⟩ ++
      byteOf d ⟨4 * j.val + 2, by omega⟩ ++ byteOf d ⟨4 * j.val + 3, by omega⟩) ∧
  (∀ d : Block, w4 (wordOf d 0) (wordOf d 1) (wordOf d 2) (wordOf d 3) = d) ∧
  (∀ (d : Block) (i : Fin 16) (b : Nat), b < 8 → (byteOf d i).getLsbD b = d.getLsbD (120 - 8 * i.val + b))

/-- R92: the table is a bijection with one fixed point, no entry is its index complemented, and it is not affine. -/
def Obligations.SboxTableProperties : Prop :=
  Function.Bijective sbox ∧ sbox 0x71 = 0x00 ∧ sbox 0xB9 = 0xFF ∧ sbox 0x00 = 0xD6 ∧
  (∀ b, sbox b = b ↔ b = 0xAB) ∧ (∀ b, sbox b ≠ b ^^^ 0xFF) ∧
  sbox 0x00 ^^^ sbox 0x01 ^^^ sbox 0x02 ^^^ sbox 0x03 = 0x51

/-- R94: the table equals its algebraic form, where `gfInv` is the inverse in the SM4 field. -/
def Obligations.SboxEqualsItsAlgebraicForm : Prop :=
  (∀ v : Byte, v ≠ 0 → gfMul polySm4 v (gfInv polySm4 v) = 1) ∧ gfInv polySm4 0 = 0 ∧
  ∀ b : Byte, sbox b = linearSm4 (gfInv polySm4 (linearSm4 b ^^^ 0xD3)) ^^^ 0xD3

/-- Each S-Box implementation strategy equals the table on every byte, where `gfInv` is the inverse in the AES field (40_sbox.md sections 1 and 2). -/
def Obligations.EveryStrategyEqualsTheTable : Prop :=
  (∀ v : Byte, v ≠ 0 → gfMul polyAes v (gfInv polyAes v) = 1) ∧ gfInv polyAes 0 = 0 ∧
  ∀ (impl : SboxImpl) (b : Byte), sboxBy impl b = sbox b

/-- R111: `L` is linear, commutes with rotation, fixes the all-ones word, and is a bijection. -/
def Obligations.EncryptionDiffusionIsALinearBijection : Prop :=
  (∀ a b : Word, lenc (a ^^^ b) = lenc a ^^^ lenc b) ∧ lenc 0 = 0 ∧
  (∀ (t : Word) (n : Nat), 0 < n → n < 32 → lenc (rol32 t n) = rol32 (lenc t) n) ∧
  lenc 0xFFFFFFFF = 0xFFFFFFFF ∧ lenc 0x00000001 = 0x01040405 ∧ lenc 0x80000000 = 0x80820202 ∧
  Function.Bijective lenc

/-- R113: `Ltag` is linear, commutes with rotation, fixes the all-ones word, and is a bijection. -/
def Obligations.KeyDiffusionIsALinearBijection : Prop :=
  (∀ a b : Word, lkey (a ^^^ b) = lkey a ^^^ lkey b) ∧ lkey 0 = 0 ∧
  (∀ (t : Word) (n : Nat), 0 < n → n < 32 → lkey (rol32 t n) = rol32 (lkey t) n) ∧
  lkey 0xFFFFFFFF = 0xFFFFFFFF ∧ lkey 0x00000001 = 0x00802001 ∧ lkey 0x80000000 = 0x80401000 ∧
  Function.Bijective lkey

/-- R114: `T` is the S-Box on each byte and then `L`, `T(0) = L(0xD6D6D6D6) = 0x5B5B5B5B`, and `T` is a bijection but not linear. -/
def Obligations.RoundSubstitutionIsANonlinearBijection : Prop :=
  (∀ w : Word, tenc w = lenc (tau w)) ∧ tenc 0 = lenc 0xD6D6D6D6 ∧ tenc 0 = 0x5B5B5B5B ∧
  Function.Bijective tenc ∧ ¬ ∀ a b : Word, tenc (a ^^^ b) = tenc a ^^^ tenc b

/-- R132: byte `j` of `CK[i]` is `((4i + j) * 7) mod 256`. -/
def Obligations.RoundConstantsFollowTheFormula : Prop :=
  ∀ (i : Nat) (_ : i < 32) (j : Fin 4),
    (ck[i].extractLsb' (24 - 8 * j.val) 8).toNat = ((4 * i + j.val) * 7) % 256

/-- R152: a round changes one word, is an involution, and the rounds done in place hold the sliding window. -/
def Obligations.RoundIsAnInvolutionAndSlidesTheWindow : Prop :=
  (∀ (x : FourWords) (pos j : Fin 4) (rk : Word), j ≠ pos → wordAtPosition (round x pos rk) j = wordAtPosition x j) ∧
  (∀ (x : FourWords) (pos : Fin 4) (rk : Word), round (round x pos rk) pos rk = x) ∧
  (∀ (rk : Vector Word 32) (x : FourWords) (X : Nat → Word),
    (∀ j : Fin 4, X j.val = wordAtPosition x j) →
    (∀ (r : Nat) (_ : r < 32), X (r + 4) = X r ^^^ tenc (X (r + 1) ^^^ X (r + 2) ^^^ X (r + 3) ^^^ rk[r])) →
    ∀ (n : Nat) (h : n ≤ 32) (i : Nat), n ≤ i → i < n + 4 →
      wordAtPosition (cryptRounds rk x n h) (Fin.ofNat 4 i) = X i)

/-- R133: round key `r` is `k[r+4]` of the rolling state that starts with the key's words exclusive-or `FK`. -/
def Obligations.KeyExpandFollowsTheRollingState : Prop :=
  ∀ (key : Block) (k : Nat → Word),
    k 0 = wordOf key 0 ^^^ 0xA3B1BAC6 → k 1 = wordOf key 1 ^^^ 0x56AA3350 →
    k 2 = wordOf key 2 ^^^ 0x677D9197 → k 3 = wordOf key 3 ^^^ 0xB27022DC →
    (∀ (r : Nat) (_ : r < 32),
      k (r + 4) = k r ^^^ lkey (tau (k (r + 1) ^^^ k (r + 2) ^^^ k (r + 3) ^^^ ck[r]))) →
    ∀ (r : Nat) (_ : r < 32), (keyExpand key)[r] = k (r + 4)

/-- The key can be computed back from any four consecutive round keys (45_context_control.md section 1). -/
def Obligations.FourRoundKeysDetermineTheKey : Prop :=
  ∀ (key key' : Block) (r : Nat) (h : r + 3 < 32),
    (keyExpand key)[r] = (keyExpand key')[r] → (keyExpand key)[r + 1] = (keyExpand key')[r + 1] →
    (keyExpand key)[r + 2] = (keyExpand key')[r + 2] → (keyExpand key)[r + 3] = (keyExpand key')[r + 3] →
      key = key'

/-- R170: `Crypt` is 32 rounds and then the words in reverse order: `X[35] || X[34] || X[33] || X[32]`. -/
def Obligations.CryptOutputsTheLastFourWordsReversed : Prop :=
  ∀ (block : Block) (rk : Vector Word 32) (X : Nat → Word),
    (∀ j : Fin 4, X j.val = wordOf block j) →
    (∀ (r : Nat) (_ : r < 32),
      X (r + 4) = X r ^^^ lenc (tau (X (r + 1) ^^^ X (r + 2) ^^^ X (r + 3) ^^^ rk[r]))) →
    crypt block rk = X 35 ++ X 34 ++ X 33 ++ X 32 ∧
    cryptRounds rk (wordsOf block) 32 (Nat.le_refl 32) = ⟨X 32, X 33, X 34, X 35⟩

/-! ## The commands: encoding, result, frame, completion, errors -/

/-- R97. -/
def Obligations.SboxCommandSubstitutesTheLowByte : Prop :=
  decode 0x1000 = .ok .sbox ∧ (∀ w, opField w = 0x10 → w ≠ 0x1000 → IllegalCommandWord w) ∧
  (∀ s : State, exec .sbox s = .next { s with answer := some {
    dout := (sbox (s.port.din.extractLsb' 0 8)).setWidth 128, status := .ok } }) ∧
  sbox 0x00 = 0xD6 ∧ sbox 0x71 = 0x00 ∧ sbox 0xAB = 0xAB ∧ sbox 0xEF = 0x84

/-- R98. -/
def Obligations.Sbox32CommandSubstitutesFourBytes : Prop :=
  decode 0x1100 = .ok .sbox32 ∧ (∀ w, opField w = 0x11 → w ≠ 0x1100 → IllegalCommandWord w) ∧
  (∀ s : State, exec .sbox32 s = .next { s with answer := some {
    dout := (sbox (s.port.din.extractLsb' 24 8) ++ sbox (s.port.din.extractLsb' 16 8) ++
      sbox (s.port.din.extractLsb' 8 8) ++ sbox (s.port.din.extractLsb' 0 8)).setWidth 128, status := .ok } }) ∧
  tau 0 = 0xD6D6D6D6 ∧ tau 0xF002C39E = 0x18E992B1

/-- R116. -/
def Obligations.LencCommandDiffusesTheLowWord : Prop :=
  decode 0x1200 = .ok .lenc ∧ (∀ w, opField w = 0x12 → w ≠ 0x1200 → IllegalCommandWord w) ∧
  (∀ (s : State) (t : Word), t = s.port.din.extractLsb' 0 32 → exec .lenc s = .next { s with answer := some {
    dout := (t ^^^ t.rotateLeft 2 ^^^ t.rotateLeft 10 ^^^ t.rotateLeft 18 ^^^ t.rotateLeft 24).setWidth 128,
    status := .ok } })

/-- R117. -/
def Obligations.LkeyCommandDiffusesTheLowWord : Prop :=
  decode 0x1300 = .ok .lkey ∧ (∀ w, opField w = 0x13 → w ≠ 0x1300 → IllegalCommandWord w) ∧
  (∀ (s : State) (t : Word), t = s.port.din.extractLsb' 0 32 → exec .lkey s = .next { s with answer := some {
    dout := (t ^^^ t.rotateLeft 13 ^^^ t.rotateLeft 23).setWidth 128, status := .ok } })

/-- R118. -/
def Obligations.TencCommandSubstitutesThenDiffuses : Prop :=
  decode 0x1400 = .ok .tenc ∧ (∀ w, opField w = 0x14 → w ≠ 0x1400 → IllegalCommandWord w) ∧
  (∀ (s : State) (t : Word), t = tau (s.port.din.extractLsb' 0 32) → exec .tenc s = .next { s with answer := some {
    dout := (t ^^^ t.rotateLeft 2 ^^^ t.rotateLeft 10 ^^^ t.rotateLeft 18 ^^^ t.rotateLeft 24).setWidth 128,
    status := .ok } }) ∧
  tenc 0 = 0x5B5B5B5B ∧ tenc 0xFFFFFFFF = 0x21212121 ∧ tenc 0xF002C39E = 0x26D99622

/-- R119. -/
def Obligations.TkeyCommandSubstitutesThenDiffuses : Prop :=
  decode 0x1500 = .ok .tkey ∧ (∀ w, opField w = 0x15 → w ≠ 0x1500 → IllegalCommandWord w) ∧
  (∀ (s : State) (t : Word), t = tau (s.port.din.extractLsb' 0 32) → exec .tkey s = .next { s with answer := some {
    dout := (t ^^^ t.rotateLeft 13 ^^^ t.rotateLeft 23).setWidth 128, status := .ok } }) ∧
  tkey 0 = 0x67676767 ∧ tkey 0xFFFFFFFF = 0x65656565 ∧ tkey 0x8283CB69 = 0x53B37958

/-- R137: both forms, with the key on `DIN` and with the all-zero key. -/
def Obligations.KinitCommandAddsTheSystemConstants : Prop :=
  decode 0x2000 = .ok (.kinit .din) ∧ decode 0x2080 = .ok (.kinit .zero) ∧
  (∀ w, opField w = 0x20 → w.extractLsb' 0 7 ≠ 0 → IllegalCommandWord w) ∧
  (∀ s : State, exec (.kinit .din) s = .next { s with answer := some {
    dout := (wordOf s.port.din 0 ^^^ 0xA3B1BAC6) ++ (wordOf s.port.din 1 ^^^ 0x56AA3350) ++
      (wordOf s.port.din 2 ^^^ 0x677D9197) ++ (wordOf s.port.din 3 ^^^ 0xB27022DC), status := .ok } }) ∧
  (∀ s : State, exec (.kinit .zero) s = .next { s with answer := some {
    dout := 0xA3B1BAC656AA3350677D9197B27022DC, status := .ok } })

/-- The command `KRND` of 42_key_schedule.md section 3: every round number, the sliding window, the words of `CK`. -/
def Obligations.KrndCommandSlidesTheKeyWindow : Prop :=
  (∀ idx : Index, decode (0x21#8 ++ 0#3 ++ idx) = .ok (.krnd idx)) ∧
  (∀ w, opField w = 0x21 → w.extractLsb' 5 3 ≠ 0 → IllegalCommandWord w) ∧
  (∀ (idx : Index) (s : State), ∃ v : Block,
    exec (.krnd idx) s = .next { s with answer := some { dout := v, status := .ok } } ∧
    wordOf v 0 = wordOf s.port.din 1 ∧ wordOf v 1 = wordOf s.port.din 2 ∧ wordOf v 2 = wordOf s.port.din 3 ∧
    wordOf v 3 = wordOf s.port.din 0 ^^^ lkey (tau (wordOf s.port.din 1 ^^^ wordOf s.port.din 2 ^^^
      wordOf s.port.din 3 ^^^ ck[idx.toNat]'idx.isLt))) ∧
  tkey ck[0] = 0x6C4BADFE ∧ tkey ck[31] = 0x10CC17F2

/-- R139 and R135: the one check, all the writes, `DOUT = 0` in every case, both forms of the key operand. -/
def Obligations.KexpCommandDerivesBothRoundKeySets : Prop :=
  decode 0x2200 = .ok (.kexp .din) ∧ decode 0x2280 = .ok (.kexp .zero) ∧
  (∀ w, opField w = 0x22 → w.extractLsb' 0 7 ≠ 0 → IllegalCommandWord w) ∧
  (∀ (src : KeySource) (s : State), s.ctx.stat.valid = true →
    exec (.kexp src) s = .next { s with answer := some { dout := 0, status := .contextLocked } }) ∧
  (∀ (src : KeySource) (s : State) (key : Block), s.ctx.stat.valid = false →
    key = (match src with | .din => s.port.din | .zero => 0) →
    ∃ c : Context, exec (.kexp src) s = .next { s with ctx := c, answer := some { dout := 0, status := .ok } } ∧
      c.stat.valid = true ∧ c.stat.backend = Config.sboxImpl ∧
      ∀ (r : Nat) (_ : r < 32), c.erk[r] = (keyExpand key)[r] ∧ c.drk[r] = (keyExpand key)[31 - r])

/-- R153: all four positions, the explicit round key, and the involution. -/
def Obligations.RndxCommandReplacesTheWordAtItsPosition : Prop :=
  (∀ pos : BitVec 2, decode (0x30#8 ++ 0#6 ++ pos) = .ok (.rndx (pos.setWidth 5))) ∧
  (∀ w, opField w = 0x30 → w.extractLsb' 2 6 ≠ 0 → IllegalCommandWord w) ∧
  (∀ (idx : Index) (s : State), ∃ v : Block,
    exec (.rndx idx) s = .next { s with answer := some { dout := v, status := .ok } } ∧
    (∀ j : Fin 4, wordOf v j =
      if j.val = (idx.extractLsb' 0 2).toNat then
        wordOf s.port.din j ^^^ lenc (tau (wordOf s.port.din (j + 1) ^^^ wordOf s.port.din (j + 2) ^^^
          wordOf s.port.din (j + 3) ^^^ s.port.rkin))
      else wordOf s.port.din j) ∧
    exec (.rndx idx) { s with port := { s.port with din := v } } =
      .next { s with port := { s.port with din := v }, answer := some { dout := s.port.din, status := .ok } }) ∧
  lenc (tau 0) = 0x5B5B5B5B

/-- The command `RND` of 43_round_function.md section 2: both Round Key Sets, every round number, and the context check. -/
def Obligations.RndCommandUsesTheContextRoundKey : Prop :=
  (∀ idx : Index, decode (0x31#8 ++ 0#1 ++ 0#2 ++ idx) = .ok (.rnd .enc idx) ∧
    decode (0x31#8 ++ 1#1 ++ 0#2 ++ idx) = .ok (.rnd .dec idx)) ∧
  (∀ w, opField w = 0x31 → w.extractLsb' 5 2 ≠ 0 → IllegalCommandWord w) ∧
  (∀ (ks : RoundKeySet) (idx : Index) (s : State), s.ctx.stat.valid = false →
    exec (.rnd ks idx) s = .next { s with answer := some { dout := 0, status := .contextInvalid } }) ∧
  (∀ (ks : RoundKeySet) (idx : Index) (s : State), s.ctx.stat.valid = true → ∃ v : Block,
    exec (.rnd ks idx) s = .next { s with answer := some { dout := v, status := .ok } } ∧
    ∀ j : Fin 4, wordOf v j =
      if j.val = idx.toNat % 4 then
        wordOf s.port.din j ^^^ lenc (tau (wordOf s.port.din (j + 1) ^^^ wordOf s.port.din (j + 2) ^^^
          wordOf s.port.din (j + 3) ^^^
          (match ks with
            | .enc => s.ctx.erk[idx.toNat]'idx.isLt
            | .dec => s.ctx.drk[idx.toNat]'idx.isLt)))
      else wordOf s.port.din j)

/-- R155: the words in reverse order, each with its bytes in order, and the identity when done twice. -/
def Obligations.RevCommandReversesTheWords : Prop :=
  decode 0x3200 = .ok .rev ∧ (∀ w, opField w = 0x32 → w ≠ 0x3200 → IllegalCommandWord w) ∧
  ∀ s : State, ∃ v : Block,
    exec .rev s = .next { s with answer := some { dout := v, status := .ok } } ∧
    (∀ j : Fin 4, wordOf v j = wordOf s.port.din (3 - j)) ∧
    exec .rev { s with port := { s.port with din := v } } =
      .next { s with port := { s.port with din := v }, answer := some { dout := s.port.din, status := .ok } }

/-- The command `CRYPT` of 44_single_block_core.md section 2: one block under the selected Round Key Set, every block accepted, and the context check. -/
def Obligations.CryptCommandTransformsOneBlock : Prop :=
  decode 0x3300 = .ok (.crypt .enc) ∧ decode 0x3380 = .ok (.crypt .dec) ∧
  (∀ w, opField w = 0x33 → w.extractLsb' 0 7 ≠ 0 → IllegalCommandWord w) ∧
  (∀ (ks : RoundKeySet) (s : State), s.ctx.stat.valid = false →
    exec (.crypt ks) s = .next { s with answer := some { dout := 0, status := .contextInvalid } }) ∧
  (∀ s : State, s.ctx.stat.valid = true →
    exec (.crypt .enc) s = .next { s with answer := some { dout := crypt s.port.din s.ctx.erk, status := .ok } } ∧
    exec (.crypt .dec) s = .next { s with answer := some { dout := crypt s.port.din s.ctx.drk, status := .ok } })

/-- R182: the register the command names, zero-extended; the context check; and, in a state that keeps the invariant, the two sets mirrored. -/
def Obligations.RdrkCommandReadsOneRoundKey : Prop :=
  (∀ idx : Index, decode (0x40#8 ++ 0#1 ++ 0#2 ++ idx) = .ok (.rdrk .enc idx) ∧
    decode (0x40#8 ++ 1#1 ++ 0#2 ++ idx) = .ok (.rdrk .dec idx)) ∧
  (∀ w, opField w = 0x40 → w.extractLsb' 5 2 ≠ 0 → IllegalCommandWord w) ∧
  (∀ (ks : RoundKeySet) (idx : Index) (s : State), s.ctx.stat.valid = false →
    exec (.rdrk ks idx) s = .next { s with answer := some { dout := 0, status := .contextInvalid } }) ∧
  (∀ (idx : Index) (s : State), s.ctx.stat.valid = true →
    exec (.rdrk .enc idx) s = .next { s with answer := some {
      dout := (s.ctx.erk[idx.toNat]'idx.isLt).setWidth 128, status := .ok } } ∧
    exec (.rdrk .dec idx) s = .next { s with answer := some {
      dout := (s.ctx.drk[idx.toNat]'idx.isLt).setWidth 128, status := .ok } }) ∧
  (∀ (idx : Index) (s : State), s.Inv → exec (.rdrk .dec idx) s = exec (.rdrk .enc (31 - idx)) s)

/-- R183 and R26: `RDST` shows `VALID` in bit 0 and `BACKEND` in bits 2:1, for every `SBOX_IMPL`, and no other command's answer depends on `BACKEND`. -/
def Obligations.RdstCommandAloneShowsTheBackend : Prop :=
  decode 0x4100 = .ok .rdst ∧ (∀ w, opField w = 0x41 → w ≠ 0x4100 → IllegalCommandWord w) ∧
  (∀ s : State, ∃ v : Block,
    exec .rdst s = .next { s with answer := some { dout := v, status := .ok } } ∧
    v.getLsbD 0 = s.ctx.stat.valid ∧ v.extractLsb' 1 2 = backendNumber s.ctx.stat.backend ∧
    v.extractLsb' 3 125 = 0 ∧
    (s.Inv → v = if s.ctx.stat.valid then
      (match Config.sboxImpl with | .table => 1 | .isoAes => 3 | .isoInv => 5) else 0)) ∧
  (∀ (i : Instr) (s : State) (b : SboxImpl), i ≠ .rdst →
    ∃ t u, exec i s = .next t ∧ exec i { s with ctx := { s.ctx with stat := { s.ctx.stat with backend := b } } } = .next u ∧
      t.answer = u.answer)

/-- R184: everything zeroed, from either context state; afterwards the round keys are not observable; and `CLR` is the only command that ends `Ready`. -/
def Obligations.ClrCommandDestroysTheContext : Prop :=
  decode 0x4200 = .ok .clr ∧ (∀ w, opField w = 0x42 → w ≠ 0x4200 → IllegalCommandWord w) ∧
  (∀ s : State, exec .clr s = .next { s with ctx := State.reset.ctx, answer := some { dout := 0, status := .ok } }) ∧
  (∀ (i : Instr) (s t : State), ReadsRoundKeys i → exec .clr s = .next t →
    exec i t = .next { t with answer := some { dout := 0, status := .contextInvalid } }) ∧
  (∀ (i : Instr) (s t : State), s.ctx.stat.valid = true → exec i s = .next t → t.ctx.stat.valid = false → i = .clr)

/-! ## Whole-machine rules -/

/-- R61: the step function is total: every command word, with every operand and in every state, has one outcome, a new state with an answer. -/
def Obligations.EveryTransactionIsAnswered : Prop :=
  ∀ (s : State) (r : Request) (rest : List HostEvent), s.pending = .transaction r :: rest →
    ∃ t a, step s = .next t ∧ t.answer = some a ∧ t.pending = rest ∧
      ∀ t', step s = .next t' → t' = t

/-- R200: every transaction produces exactly one code, by this table, and never a code from 4 to 7. -/
def Obligations.StatusCodeOfEveryTransaction : Prop :=
  statusCode .ok = 0 ∧ statusCode .illegalCommand = 1 ∧ statusCode .contextInvalid = 2 ∧
  statusCode .contextLocked = 3 ∧
  ∀ (s : State) (r : Request) (rest : List HostEvent), s.pending = .transaction r :: rest →
    ∃ t a, step s = .next t ∧ t.answer = some a ∧ (statusCode a.status).toNat < 4 ∧
      (a.status = .illegalCommand ↔ IllegalCommandWord r.cmd) ∧
      (a.status = .contextInvalid ↔
        s.ctx.stat.valid = false ∧ ∃ i, decode r.cmd = .ok i ∧ ReadsRoundKeys i) ∧
      (a.status = .contextLocked ↔ s.ctx.stat.valid = true ∧ ∃ src, decode r.cmd = .ok (.kexp src))

/-- R204: a transaction with any code other than `OK` has `DOUT = 0` and writes no state element. -/
def Obligations.FailedTransactionWritesNothing : Prop :=
  ∀ (s t : State) (r : Request) (rest : List HostEvent) (a : Answer),
    s.pending = .transaction r :: rest → step s = .next t → t.answer = some a → a.status ≠ .ok →
      a.dout = 0 ∧ t.ctx = s.ctx

/-- R206: for a legal word, the twelve commands with no context check always return `OK`, and no data value is illegal: the status of a transaction does not depend on its `DIN` and `RKIN`. -/
def Obligations.CommandsWithoutAContextCheckNeverFail : Prop :=
  (∀ (s : State) (r : Request) (rest : List HostEvent) (i : Instr),
    s.pending = .transaction r :: rest → decode r.cmd = .ok i → (ContextFree i ∨ i = .rdst ∨ i = .clr) →
      ∃ t v, step s = .next t ∧ t.answer = some { dout := v, status := .ok }) ∧
  (∀ (s : State) (r : Request) (rest : List HostEvent) (din : Block) (rkin : Word),
    s.pending = .transaction r :: rest →
      ∃ t u a b, step s = .next t ∧ t.answer = some a ∧
        step { s with pending := .transaction { r with din := din, rkin := rkin } :: rest } = .next u ∧
        u.answer = some b ∧ a.status = b.status)

/-- R180: the life cycle, command by command and in both states of the context. -/
def Obligations.ContextLifeCycle : Prop :=
  (∀ (i : Instr) (s : State), ContextFree i → ∃ v,
    exec i s = .next { s with answer := some { dout := v, status := .ok } }) ∧
  (∀ (src : KeySource) (s : State), s.ctx.Uninitialized → ∃ c,
    exec (.kexp src) s = .next { s with ctx := c, answer := some { dout := 0, status := .ok } } ∧ c.Ready) ∧
  (∀ (src : KeySource) (s : State), s.ctx.Ready →
    exec (.kexp src) s = .next { s with answer := some { dout := 0, status := .contextLocked } }) ∧
  (∀ (i : Instr) (s : State), ReadsRoundKeys i → s.ctx.Uninitialized →
    exec i s = .next { s with answer := some { dout := 0, status := .contextInvalid } }) ∧
  (∀ (i : Instr) (s : State), ReadsRoundKeys i → s.ctx.Ready → ∃ v,
    exec i s = .next { s with answer := some { dout := v, status := .ok } }) ∧
  (∀ s : State, s.ctx.Uninitialized → exec .rdst s = .next { s with answer := some { dout := 0, status := .ok } }) ∧
  (∀ s : State, s.ctx.Ready → ∃ v, exec .rdst s = .next { s with answer := some { dout := v, status := .ok } }) ∧
  (∀ s : State, ∃ c, exec .clr s = .next { s with ctx := c, answer := some { dout := 0, status := .ok } } ∧
    c.Uninitialized) ∧
  (∀ (s : State) (r : Request) (rest : List HostEvent), s.pending = .transaction r :: rest →
    IllegalCommandWord r.cmd →
      step s = .next { s with port := r, pending := rest, answer := some { dout := 0, status := .illegalCommand } }) ∧
  (∀ (s : State) (rest : List HostEvent), s.pending = .reset :: rest →
    ∃ t, step s = .next t ∧ t.ctx.Uninitialized)

/-- `VALID` is set by exactly one event, a `KEXP` that completes, and cleared by exactly two, `CLR` and reset (10_state.md section 3). -/
def Obligations.ValidChangesOnlyByKexpClrAndReset : Prop :=
  ∀ s t : State, step s = .next t →
    (s.ctx.stat.valid = false → (t.ctx.stat.valid = true ↔
      ∃ r rest src, s.pending = .transaction r :: rest ∧ decode r.cmd = .ok (.kexp src))) ∧
    (s.ctx.stat.valid = true → (t.ctx.stat.valid = false ↔
      (∃ rest, s.pending = .reset :: rest) ∨
      ∃ r rest, s.pending = .transaction r :: rest ∧ decode r.cmd = .ok .clr))

/-- The invariant of R23 and R26 holds at reset (10_state.md section 8). -/
def Obligations.ResetStateKeepsTheInvariant : Prop := State.reset.Inv

/-- R23: every step keeps the invariant of the Round Key Sets, and while `VALID = 1` no command other than `CLR` writes them. -/
def Obligations.EveryStepKeepsTheRoundKeyInvariant : Prop :=
  (∀ s t : State, s.Inv → step s = .next t → t.Inv) ∧
  (∀ (i : Instr) (s t : State), s.ctx.stat.valid = true → i ≠ .clr → exec i s = .next t →
    t.ctx.erk = s.ctx.erk ∧ t.ctx.drk = s.ctx.drk)

/-- R48: bits of `DIN` and `RKIN` outside a command's input operand affect neither the answer nor the context, and bits of `DOUT` outside its output operand are zero; with the no-key flag no bit of `DIN` matters. -/
def Obligations.OnlyOperandBitsMatter : Prop :=
  (∀ (i : Instr) (s : State) (din : Block) (rkin : Word),
    s.port.din &&& dinMask i = din &&& dinMask i → s.port.rkin &&& rkinMask i = rkin &&& rkinMask i →
    ∃ t u, exec i s = .next t ∧ exec i { s with port := { s.port with din := din, rkin := rkin } } = .next u ∧
      t.answer = u.answer ∧ t.ctx = u.ctx) ∧
  (∀ (i : Instr) (s t : State) (a : Answer), exec i s = .next t → t.answer = some a →
    a.dout &&& ~~~ doutMask i = 0)

/-- Every command except `KEXP` and `CLR` leaves the context and can be repeated with the same outcome; `CLR` twice leaves the state of `CLR` once; `KEXP` twice fails the second time (20_memory.md section 5). -/
def Obligations.RepeatingACommand : Prop :=
  (∀ (i : Instr) (s t : State), ReadOnly i → exec i s = .next t → t.ctx = s.ctx ∧ exec i t = .next t) ∧
  (∀ s t : State, exec .clr s = .next t → exec .clr t = .next t) ∧
  (∀ (src src' : KeySource) (s t : State), exec (.kexp src) s = .next t →
    exec (.kexp src') t = .next { t with answer := some { dout := 0, status := .contextLocked } })

/-- R30: a transaction's outputs and its effect depend only on its own `CMD`, `DIN`, `RKIN` and on the context; nothing else of an earlier transaction is left in the block. -/
def Obligations.NoStateIsHidden : Prop :=
  ∀ (s u : State) (e : HostEvent) (rest rest' : List HostEvent),
    s.ctx = u.ctx → s.pending = e :: rest → u.pending = e :: rest' →
      ∃ s' u', step s = .next s' ∧ step u = .next u' ∧ s'.ctx = u'.ctx ∧ s'.answer = u'.answer

/-- No error is sticky: the event after a failed transaction has the outcome it would have had without it (60_exceptions.md section 4). -/
def Obligations.FailedTransactionIsForgotten : Prop :=
  ∀ (s t : State) (r : Request) (e : HostEvent) (rest : List HostEvent) (a : Answer),
    s.pending = .transaction r :: e :: rest → step s = .next t → t.answer = some a → a.status ≠ .ok →
      ∃ t' u', step t = .next t' ∧ step { s with pending := e :: rest } = .next u' ∧
        t'.ctx = u'.ctx ∧ t'.answer = u'.answer

/-- Commands that leave the context alone answer the same in either order, so hosts may interleave them (20_memory.md section 6). -/
def Obligations.ReadOnlyTransactionsInEitherOrder : Prop :=
  ∀ (s : State) (p q : Request) (rest : List HostEvent) (i j : Instr),
    decode p.cmd = .ok i → decode q.cmd = .ok j → ReadOnly i → ReadOnly j →
      ∃ s1 s2 t1 t2,
        step { s with pending := .transaction p :: .transaction q :: rest } = .next s1 ∧ step s1 = .next s2 ∧
        step { s with pending := .transaction q :: .transaction p :: rest } = .next t1 ∧ step t1 = .next t2 ∧
        s1.answer = t2.answer ∧ s2.answer = t1.answer ∧ s2.ctx = s.ctx ∧ t2.ctx = s.ctx

/-! ## Several commands together -/

/-- R171: in any context with `VALID = 1`, decryption undoes encryption and encryption undoes decryption. -/
def Obligations.DecryptionUndoesEncryption : Prop :=
  ∀ (s : State), s.Inv → s.ctx.stat.valid = true → ∀ ks ks' : RoundKeySet, ks ≠ ks' →
    ∃ v, exec (.crypt ks) s = .next { s with answer := some { dout := v, status := .ok } } ∧
      exec (.crypt ks') { s with port := { s.port with din := v } } =
        .next { s with port := { s.port with din := v }, answer := some { dout := s.port.din, status := .ok } }

/-- `RND 0` to `RND 31`, each on the previous `DOUT`, and then `REV`, give what `CRYPT` gives, and leave the context alone (43_round_function.md section 2, 44_single_block_core.md section 2). -/
def Obligations.RoundsThenReverseEqualCrypt : Prop :=
  ∀ (ks : RoundKeySet) (s : State), s.ctx.stat.valid = true →
    ∃ t v, runFeedingBack (roundsThenReverse ks) s = .next t ∧ t.ctx = s.ctx ∧
      t.answer = some { dout := v, status := .ok } ∧
      exec (.crypt ks) s = .next { s with answer := some { dout := v, status := .ok } }

/-- `KINIT` and then `KRND 0` to `KRND r`, each on the previous `DOUT`, show as word 3 the round key `r` that `KEXP` derives from the same key (42_key_schedule.md section 3). -/
def Obligations.KeyRoundsShowTheRoundKeysOfKexp : Prop :=
  ∀ (src : KeySource) (s : State) (r : Nat) (h : r < 32), s.ctx.stat.valid = false →
    ∃ t v u, runFeedingBack (keyRoundsUpTo src r) s = .next t ∧ t.ctx = s.ctx ∧
      t.answer = some { dout := v, status := .ok } ∧
      exec (.kexp src) s = .next u ∧ u.ctx.erk[r] = wordOf v 3
end

