-- ==== Sys2Proof/Laws/Operands.lean ====
section
/-! SUPPORT. The lanes of a port: taking words and putting them back, and the uses of `idx`. -/

namespace Sys2Proof.Machine

theorem rol32_eq_rotateLeft (v : Word) {n : Nat} (h : n < 32) : rol32 v n = v.rotateLeft n := by
  simp [rol32, BitVec.rotateLeft, BitVec.rotateLeftAux, Nat.mod_eq_of_lt h]

theorem rol8_eq_rotateLeft (b : Byte) {n : Nat} (h : n < 8) : rol8 b n = b.rotateLeft n := by
  simp [rol8, BitVec.rotateLeft, BitVec.rotateLeftAux, Nat.mod_eq_of_lt h]

/-! ## Four words -/

theorem wordAtPosition_replaceWord (x : FourWords) (i j : Fin 4) (v : Word) :
    wordAtPosition (replaceWord x i v) j = if j = i then v else wordAtPosition x j := by
  fin_cases i <;> fin_cases j <;> rfl

/-- Four words are equal when they are equal at each position. -/
theorem eq_of_wordAtPosition_eq {x y : FourWords} (h : ∀ j, wordAtPosition x j = wordAtPosition y j) : x = y := by
  cases x
  cases y
  exact (FourWords.mk.injEq ..).mpr ⟨h 0, h 1, h 2, h 3⟩

@[simp] theorem wordAtPosition_wordsOf (d : Block) (j : Fin 4) : wordAtPosition (wordsOf d) j = wordOf d j := by
  fin_cases j <;> rfl

/-! ## Ports as words -/

theorem packWords_wordsOf (d : Block) : packWords (wordsOf d) = d := by
  apply BitVec.eq_of_getLsbD_eq
  intro i hi
  have e1 : ¬i < 32 → 32 + (i - 32) = i := by omega
  have e2 : ¬i < 32 → ¬i - 32 < 32 → 64 + (i - 32 - 32) = i := by omega
  have e3 : ¬i < 32 → ¬i - 32 < 32 → ¬i - 32 - 32 < 32 →
      i - 32 - 32 - 32 < 32 ∧ 96 + (i - 32 - 32 - 32) = i := by omega
  simp only [packWords, wordsOf, w4, wordOf, BitVec.getLsbD_append, BitVec.getLsbD_extractLsb']
  split_ifs with h1 h2 h3
  · simp [h1]
  · simp [h2, e1 h1]
  · simp [h3, e2 h1 h2]
  · simp [e3 h1 h2 h3]

theorem wordOf_w4 (a b c d : Word) (j : Fin 4) : wordOf (w4 a b c d) j = wordAtPosition ⟨a, b, c, d⟩ j := by
  apply BitVec.eq_of_getLsbD_eq
  intro i hi
  fin_cases j <;> simp only [wordOf, w4, BitVec.getLsbD_append, BitVec.getLsbD_extractLsb', hi]
  · simp [wordAtPosition, show ¬ 96 + i < 32 by omega, show ¬ 96 + i - 32 < 32 by omega, show ¬ 96 + i - 32 - 32 < 32 by omega,
      show 96 + i - 32 - 32 - 32 = i by omega]
  · simp [wordAtPosition, show ¬ 64 + i < 32 by omega, show ¬ 64 + i - 32 < 32 by omega, show 64 + i - 32 - 32 = i by omega, hi]
  · simp [wordAtPosition, show ¬ 32 + i < 32 by omega, show 32 + i - 32 = i by omega, hi]
  · simp [wordAtPosition, hi]

theorem wordOf_packWords (x : FourWords) (j : Fin 4) : wordOf (packWords x) j = wordAtPosition x j := by
  rw [packWords, wordOf_w4]

/-- Two ports with the same four words are equal. -/
theorem eq_of_wordOf_eq {d d' : Block} (h : ∀ j, wordOf d j = wordOf d' j) : d = d' := by
  have hw : wordsOf d = wordsOf d' := by simp only [wordsOf, h]
  calc d = packWords (wordsOf d) := (packWords_wordsOf d).symm
    _ = d' := by rw [hw, packWords_wordsOf]

theorem wordsOf_packWords (x : FourWords) : wordsOf (packWords x) = x :=
  eq_of_wordAtPosition_eq fun j => (wordAtPosition_wordsOf _ j).trans (wordOf_packWords x j)

/-- `idx[1:0]` is `idx mod 4` (R154). -/
theorem positionOf_val (idx : Index) : (positionOf idx).val = idx.toNat % 4 := by
  simp [positionOf]

end Sys2Proof.Machine
end

