-- ==== Sys2Proof/Laws/State.lean ====
section
/-! SUPPORT. What each update of the state leaves in each field, so that no proof unfolds a record update. -/

namespace Sys2Proof.Machine

section answered
variable (s : State) (v : Block) (st : Status)

@[simp] theorem answered_ctx : (s.answered v st).ctx = s.ctx := rfl
@[simp] theorem answered_port : (s.answered v st).port = s.port := rfl
@[simp] theorem answered_pending : (s.answered v st).pending = s.pending := rfl
@[simp] theorem answered_answer : (s.answered v st).answer = some { dout := v, status := st } := rfl
@[simp] theorem answered_answered (v' : Block) (st' : Status) :
    (s.answered v st).answered v' st' = s.answered v' st' := rfl
end answered

section withContext
variable (s : State) (c : Context)

@[simp] theorem withContext_ctx : (s.withContext c).ctx = c := rfl
@[simp] theorem withContext_port : (s.withContext c).port = s.port := rfl
@[simp] theorem withContext_pending : (s.withContext c).pending = s.pending := rfl
@[simp] theorem withContext_answer : (s.withContext c).answer = s.answer := rfl
@[simp] theorem withContext_self : s.withContext s.ctx = s := rfl
end withContext

section present
variable (s : State) (r : Request) (rest : List HostEvent)

@[simp] theorem present_ctx : (s.present r rest).ctx = s.ctx := rfl
@[simp] theorem present_port : (s.present r rest).port = r := rfl
@[simp] theorem present_pending : (s.present r rest).pending = rest := rfl
@[simp] theorem present_answer : (s.present r rest).answer = s.answer := rfl
end present

section resetAsserted
variable (s : State) (rest : List HostEvent)

@[simp] theorem resetAsserted_ctx : (s.resetAsserted rest).ctx = clearedContext := rfl
@[simp] theorem resetAsserted_port : (s.resetAsserted rest).port = s.port := rfl
@[simp] theorem resetAsserted_pending : (s.resetAsserted rest).pending = rest := rfl
@[simp] theorem resetAsserted_answer : (s.resetAsserted rest).answer = none := rfl
end resetAsserted

section idle
variable (s : State)

@[simp] theorem idle_ctx : s.idle.ctx = s.ctx := rfl
@[simp] theorem idle_port : s.idle.port = s.port := rfl
@[simp] theorem idle_pending : s.idle.pending = s.pending := rfl
@[simp] theorem idle_answer : s.idle.answer = none := rfl
end idle

section contexts
variable (rk : Vector Word 32)

@[simp] theorem readyContext_erk : (readyContext rk).erk = rk := rfl
@[simp] theorem readyContext_drk : (readyContext rk).drk = rk.reverse := rfl
@[simp] theorem readyContext_valid : (readyContext rk).stat.valid = true := rfl
@[simp] theorem readyContext_backend : (readyContext rk).stat.backend = Config.sboxImpl := rfl
@[simp] theorem clearedContext_valid : clearedContext.stat.valid = false := rfl
@[simp] theorem clearedContext_bits : ctxStatBits clearedContext.stat = 0 := rfl

@[simp] theorem clearedContext_erk (i : Nat) (h : i < 32) : clearedContext.erk[i] = 0 := by
  simp [clearedContext]

@[simp] theorem clearedContext_drk (i : Nat) (h : i < 32) : clearedContext.drk[i] = 0 := by
  simp [clearedContext]

/-- `CLR` and `RESET` leave the reset state (R184, R230). -/
theorem clearedContext_eq_reset : clearedContext = State.reset.ctx := rfl
end contexts

end Sys2Proof.Machine
end

