-- ==== Sys2Proof/Laws/Ops.lean ====
section
/-! SUPPORT. What each shared operation can do, said once: the ends of a transaction, the two context checks, and from them what `exec` and `step` can do. -/

namespace Sys2Proof.Machine

/-! ## The context checks -/

theorem requireReady_of_valid {s : State} (h : s.ctx.stat.valid = true) (body : StepOutcome) :
    requireReady s body = body := by simp [requireReady, h]

theorem requireReady_of_not_valid {s : State} (h : s.ctx.stat.valid = false) (body : StepOutcome) :
    requireReady s body = .next (s.answered 0 .contextInvalid) := by simp [requireReady, raise, h]

theorem requireUninitialized_of_not_valid {s : State} (h : s.ctx.stat.valid = false) (body : StepOutcome) :
    requireUninitialized s body = body := by simp [requireUninitialized, h]

theorem requireUninitialized_of_valid {s : State} (h : s.ctx.stat.valid = true) (body : StepOutcome) :
    requireUninitialized s body = .next (s.answered 0 .contextLocked) := by
  simp [requireUninitialized, raise, h]

/-! ## What a command can do -/

theorem exec_kexp_of_not_valid (src : KeySource) {s : State} (h : s.ctx.stat.valid = false) :
    exec (.kexp src) s =
      .next ((s.withContext (readyContext (keyExpand (keyOperand src s.port.din)))).answered 0 .ok) :=
  requireUninitialized_of_not_valid h _

theorem exec_kexp_of_valid (src : KeySource) {s : State} (h : s.ctx.stat.valid = true) :
    exec (.kexp src) s = .next (s.answered 0 .contextLocked) := requireUninitialized_of_valid h _

theorem exec_clr (s : State) : exec .clr s = .next ((s.withContext clearedContext).answered 0 .ok) := rfl

/-- `RND`, `CRYPT`, `RDRK` while `VALID = 0` (R202). -/
theorem exec_readsRoundKeys_of_not_valid {i : Instr} (hi : ReadsRoundKeys i) {s : State}
    (h : s.ctx.stat.valid = false) : exec i s = .next (s.answered 0 .contextInvalid) := by
  cases i <;> first | exact hi.elim | exact requireReady_of_not_valid h _

/-- `RND`, `CRYPT`, `RDRK` while `VALID = 1`: an answer, and nothing else (R49). -/
theorem exec_readsRoundKeys_of_valid {i : Instr} (hi : ReadsRoundKeys i) {s : State}
    (h : s.ctx.stat.valid = true) : ∃ v, exec i s = .next (s.answered v .ok) := by
  cases i <;> first | exact hi.elim | exact ⟨_, requireReady_of_valid h _⟩

/-- The ten context-free commands and `RDST`: an answer, and nothing else (R206). -/
theorem exec_of_no_check {i : Instr} (hi : ContextFree i ∨ i = .rdst) (s : State) :
    ∃ v, exec i s = .next (s.answered v .ok) := by
  cases i <;> first | exact ⟨_, rfl⟩ | (exfalso; simp [ContextFree] at hi)

/-- Everything `exec` can do to the fields of the state: it answers, and it writes the context only as a `KEXP` in `VALID = 0` or as a `CLR`. -/
theorem exec_cases (i : Instr) (s : State) :
    (∃ v st, exec i s = .next (s.answered v st)) ∨
    (∃ src, i = .kexp src ∧ s.ctx.stat.valid = false ∧
      exec i s = .next ((s.withContext (readyContext (keyExpand (keyOperand src s.port.din)))).answered 0 .ok)) ∨
    (i = .clr ∧ exec i s = .next ((s.withContext clearedContext).answered 0 .ok)) := by
  have ready (v : Block) : ∃ v' st, requireReady s (complete s v) = .next (s.answered v' st) := by
    cases h : s.ctx.stat.valid
    · exact ⟨_, _, requireReady_of_not_valid h _⟩
    · exact ⟨_, _, requireReady_of_valid h _⟩
  cases i with
  | kexp src =>
    cases h : s.ctx.stat.valid
    · exact .inr (.inl ⟨src, rfl, rfl, requireUninitialized_of_not_valid h _⟩)
    · exact .inl ⟨_, _, requireUninitialized_of_valid h _⟩
  | clr => exact .inr (.inr ⟨rfl, rfl⟩)
  | rnd keys idx => exact .inl (ready _)
  | crypt keys => exact .inl (ready _)
  | rdrk keys idx => exact .inl (ready _)
  | _ => exact .inl ⟨_, _, rfl⟩

/-- Everything `step` can do: be idle, be reset, raise `IllegalCommand`, or run the decoded command. -/
theorem step_cases (s : State) :
    (s.pending = [] ∧ step s = .next s.idle) ∨
    (∃ rest, s.pending = .reset :: rest ∧ step s = .next (s.resetAsserted rest)) ∨
    (∃ r rest e, s.pending = .transaction r :: rest ∧ decode r.cmd = .error e ∧
      step s = .next ((s.present r rest).answered 0 .illegalCommand)) ∨
    (∃ r rest i, s.pending = .transaction r :: rest ∧ decode r.cmd = .ok i ∧
      step s = exec i (s.present r rest)) := by
  unfold step
  split
  · exact .inl ⟨‹_›, rfl⟩
  · exact .inr (.inl ⟨_, ‹_›, rfl⟩)
  · rename_i r rest hp
    split
    · exact .inr (.inr (.inr ⟨r, rest, _, hp, ‹_›, rfl⟩))
    · exact .inr (.inr (.inl ⟨r, rest, _, hp, ‹_›, rfl⟩))

end Sys2Proof.Machine
end

