-- ==== Sys2Proof/Laws/PerInstr.lean ====
section
/-! SUPPORT. Per command: its word selects the row of the opcode map that bears its mnemonic, and `z` is zero in it. -/

namespace Sys2Proof.Laws

/-- The command's word selects a row of R66 with the command's mnemonic, and its bits 6:5 are zero (R62). -/
def TableRow.Statement (i : Instr) : Prop :=
  i.WellFormed → zField (encode i) = 0 ∧
    ∃ row ∈ opcodeTable, row.mnemonic = i.mnemonic ∧ row.selects (encode i) = true

theorem TableRow.sbox : TableRow.Statement .sbox := by unfold TableRow.Statement; decide
theorem TableRow.sbox32 : TableRow.Statement .sbox32 := by unfold TableRow.Statement; decide
theorem TableRow.lenc : TableRow.Statement .lenc := by unfold TableRow.Statement; decide
theorem TableRow.lkey : TableRow.Statement .lkey := by unfold TableRow.Statement; decide
theorem TableRow.tenc : TableRow.Statement .tenc := by unfold TableRow.Statement; decide
theorem TableRow.tkey : TableRow.Statement .tkey := by unfold TableRow.Statement; decide
theorem TableRow.kinit (src : KeySource) : TableRow.Statement (.kinit src) := by
  unfold TableRow.Statement; cases src <;> decide
theorem TableRow.krnd (idx : Index) : TableRow.Statement (.krnd idx) := by
  unfold TableRow.Statement; revert idx; decide +kernel
theorem TableRow.kexp (src : KeySource) : TableRow.Statement (.kexp src) := by
  unfold TableRow.Statement; cases src <;> decide
theorem TableRow.rndx (idx : Index) : TableRow.Statement (.rndx idx) := by
  unfold TableRow.Statement; revert idx; decide +kernel
theorem TableRow.rnd (keys : RoundKeySet) (idx : Index) : TableRow.Statement (.rnd keys idx) := by
  unfold TableRow.Statement; revert idx; cases keys <;> decide +kernel
theorem TableRow.rev : TableRow.Statement .rev := by unfold TableRow.Statement; decide
theorem TableRow.crypt (keys : RoundKeySet) : TableRow.Statement (.crypt keys) := by
  unfold TableRow.Statement; cases keys <;> decide
theorem TableRow.rdrk (keys : RoundKeySet) (idx : Index) : TableRow.Statement (.rdrk keys idx) := by
  unfold TableRow.Statement; revert idx; cases keys <;> decide +kernel
theorem TableRow.rdst : TableRow.Statement .rdst := by unfold TableRow.Statement; decide
theorem TableRow.clr : TableRow.Statement .clr := by unfold TableRow.Statement; decide

end Sys2Proof.Laws
end

