-- ==== Sys2Proof/Laws/Round.lean ====
section
/-! SUPPORT. What the round function, the key round and the two 32-round loops do, word by word. -/

namespace Sys2Proof.Machine

/-! ## The round -/

/-- A round replaces the word at `pos` and leaves the other three (R150). -/
theorem round_word (x : FourWords) (pos : Fin 4) (rk : Word) (j : Fin 4) :
    wordAtPosition (round x pos rk) j =
      if j = pos then wordAtPosition x pos ^^^ tenc (wordAtPosition x (pos + 1) ^^^
        wordAtPosition x (pos + 2) ^^^ wordAtPosition x (pos + 3) ^^^ rk)
      else wordAtPosition x j := wordAtPosition_replaceWord ..

section positions
variable (a b c d rk : Word)

theorem round_at_0 : round ⟨a, b, c, d⟩ 0 rk = ⟨a ^^^ tenc (b ^^^ c ^^^ d ^^^ rk), b, c, d⟩ := rfl
theorem round_at_1 : round ⟨a, b, c, d⟩ 1 rk = ⟨a, b ^^^ tenc (c ^^^ d ^^^ a ^^^ rk), c, d⟩ := rfl
theorem round_at_2 : round ⟨a, b, c, d⟩ 2 rk = ⟨a, b, c ^^^ tenc (d ^^^ a ^^^ b ^^^ rk), d⟩ := rfl
theorem round_at_3 : round ⟨a, b, c, d⟩ 3 rk = ⟨a, b, c, d ^^^ tenc (a ^^^ b ^^^ c ^^^ rk)⟩ := rfl
end positions

@[simp] theorem wordAtPosition_reverseWords (x : FourWords) (j : Fin 4) :
    wordAtPosition (reverseWords x) j = wordAtPosition x (3 - j) := by
  fin_cases j <;> rfl

@[simp] theorem reverseWords_reverseWords (x : FourWords) : reverseWords (reverseWords x) = x := rfl

/-! ## The loops -/

@[simp] theorem cryptRounds_zero (rk : Vector Word 32) (x : FourWords) (h : 0 ≤ 32) :
    cryptRounds rk x 0 h = x := rfl

@[simp] theorem cryptRounds_succ (rk : Vector Word 32) (x : FourWords) (n : Nat) (h : n + 1 ≤ 32) :
    cryptRounds rk x (n + 1) h = round (cryptRounds rk x n (Nat.le_of_succ_le h)) (Fin.ofNat 4 n) rk[n] := rfl

@[simp] theorem keyWindow_zero (key : Block) (h : 0 ≤ 32) : keyWindow key 0 h = keyStart key := rfl

@[simp] theorem keyWindow_succ (key : Block) (n : Nat) (h : n + 1 ≤ 32) :
    keyWindow key (n + 1) h = keyRound (keyWindow key n (Nat.le_of_succ_le h)) ck[n] := rfl

theorem keyExpand_getElem (key : Block) (r : Nat) (h : r < 32) :
    (keyExpand key)[r] = (keyWindow key (r + 1) h).x3 := by simp [keyExpand]

/-- The key round forgets only `k[0]`, and that one can be computed back (R181). -/
theorem keyRound_back (k : FourWords) (c : Word) :
    k.x0 = (keyRound k c).x3 ^^^ tkey ((keyRound k c).x0 ^^^ (keyRound k c).x1 ^^^ (keyRound k c).x2 ^^^ c) := by
  simp [keyRound, BitVec.xor_assoc]

theorem keyOperand_din (d : Block) : keyOperand .din d = d := rfl

theorem keyOperand_zero (d : Block) : keyOperand .zero d = 0 := rfl

end Sys2Proof.Machine
end

