-- ==== Sys2Proof/Laws/Sbox.lean ====
section
/-! SUPPORT. The S-Box on a word acts lane by lane, and the two diffusions are sums of rotations. -/

namespace Sys2Proof.Machine

/-- Lane `k` of `tau` depends on lane `k` of its input only (R74, R93). -/
theorem tau_lane (w : Word) (k : Fin 4) :
    (tau w).extractLsb' (8 * k.val) 8 = sbox (w.extractLsb' (8 * k.val) 8) := by
  apply BitVec.eq_of_getLsbD_eq
  intro i hi
  fin_cases k <;> simp only [tau, BitVec.getLsbD_append, BitVec.getLsbD_extractLsb', hi]
  · simp [hi]
  · simp [show ¬ 8 + i < 8 by omega, hi]
  · simp [show ¬ 16 + i < 8 by omega, show ¬ 16 + i - 8 < 8 by omega, show 16 + i - 8 - 8 = i by omega, hi]
  · simp [show ¬ 24 + i < 8 by omega, show ¬ 24 + i - 8 < 8 by omega, show ¬ 24 + i - 8 - 8 < 8 by omega,
      show 24 + i - 8 - 8 - 8 = i by omega]

/-- A rotation distributes over exclusive-or. -/
theorem rol32_xor (a b : Word) (n : Nat) : rol32 (a ^^^ b) n = rol32 a n ^^^ rol32 b n := by
  apply BitVec.eq_of_getLsbD_eq
  intro i hi
  simp only [rol32, BitVec.getLsbD_or, BitVec.getLsbD_shiftLeft, BitVec.getLsbD_ushiftRight, BitVec.getLsbD_xor]
  by_cases h : i < n
  · simp [h]
  · simp [h, hi, BitVec.getLsbD_of_ge a (32 - n + i) (by omega), BitVec.getLsbD_of_ge b (32 - n + i) (by omega)]

end Sys2Proof.Machine
end

