-- ==== Sys2Proof/Tests/Slice0.lean ====
section
/-! SUPPORT. The model's own tests: decoding of words written out from 30_encoding.md, results from the spec's vectors (95_test_vectors.md), and for every statement with hypotheses a state and operands that meet them. -/

namespace Sys2Proof.Tests

open Sys2Proof.Machine

/-! ## Well-formedness: one term for the one check, refused -/

theorem test_wellFormed_refuses_position_4 : ¬ (Instr.rndx 4).WellFormed := by decide
theorem test_wellFormed_accepts_position_3 : (Instr.rndx 3).WellFormed := by decide

/-! ## Decoding: the fields `op`, `m`, `z`, `idx` written out, for every constructor (R63, R66) -/

theorem test_decode_function_formats :
    decode (0b00010000#8 ++ 0b0#1 ++ 0b00#2 ++ 0b00000#5) = .ok .sbox ∧
    decode (0b00010001#8 ++ 0b0#1 ++ 0b00#2 ++ 0b00000#5) = .ok .sbox32 ∧
    decode (0b00010010#8 ++ 0b0#1 ++ 0b00#2 ++ 0b00000#5) = .ok .lenc ∧
    decode (0b00010011#8 ++ 0b0#1 ++ 0b00#2 ++ 0b00000#5) = .ok .lkey ∧
    decode (0b00010100#8 ++ 0b0#1 ++ 0b00#2 ++ 0b00000#5) = .ok .tenc ∧
    decode (0b00010101#8 ++ 0b0#1 ++ 0b00#2 ++ 0b00000#5) = .ok .tkey := by decide

theorem test_decode_key_schedule :
    decode (0b00100000#8 ++ 0b0#1 ++ 0b00#2 ++ 0b00000#5) = .ok (.kinit .din) ∧
    decode (0b00100000#8 ++ 0b1#1 ++ 0b00#2 ++ 0b00000#5) = .ok (.kinit .zero) ∧
    decode (0b00100001#8 ++ 0b0#1 ++ 0b00#2 ++ 0b10110#5) = .ok (.krnd 22) ∧
    decode (0b00100010#8 ++ 0b0#1 ++ 0b00#2 ++ 0b00000#5) = .ok (.kexp .din) ∧
    decode (0b00100010#8 ++ 0b1#1 ++ 0b00#2 ++ 0b00000#5) = .ok (.kexp .zero) := by decide

theorem test_decode_rounds :
    decode (0b00110000#8 ++ 0b0#1 ++ 0b00#2 ++ 0b00010#5) = .ok (.rndx 2) ∧
    decode (0b00110001#8 ++ 0b0#1 ++ 0b00#2 ++ 0b10110#5) = .ok (.rnd .enc 22) ∧
    decode (0b00110001#8 ++ 0b1#1 ++ 0b00#2 ++ 0b01001#5) = .ok (.rnd .dec 9) ∧
    decode (0b00110010#8 ++ 0b0#1 ++ 0b00#2 ++ 0b00000#5) = .ok .rev ∧
    decode (0b00110011#8 ++ 0b0#1 ++ 0b00#2 ++ 0b00000#5) = .ok (.crypt .enc) ∧
    decode (0b00110011#8 ++ 0b1#1 ++ 0b00#2 ++ 0b00000#5) = .ok (.crypt .dec) := by decide

theorem test_decode_context :
    decode (0b01000000#8 ++ 0b0#1 ++ 0b00#2 ++ 0b11111#5) = .ok (.rdrk .enc 31) ∧
    decode (0b01000000#8 ++ 0b1#1 ++ 0b00#2 ++ 0b00001#5) = .ok (.rdrk .dec 1) ∧
    decode (0b01000001#8 ++ 0b0#1 ++ 0b00#2 ++ 0b00000#5) = .ok .rdst ∧
    decode (0b01000010#8 ++ 0b0#1 ++ 0b00#2 ++ 0b00000#5) = .ok .clr := by decide

/-- The illegal words of V11, each refused by the name of its fault. -/
theorem test_decode_refuses_V11 :
    decode 0x0000 = .error .opcodeNotInTable ∧ decode 0xFFFF = .error .opcodeNotInTable ∧
    decode 0x1600 = .error .opcodeNotInTable ∧ decode 0x2300 = .error .opcodeNotInTable ∧
    decode 0x3400 = .error .opcodeNotInTable ∧ decode 0x4300 = .error .opcodeNotInTable ∧
    decode 0x1001 = .error .indexNotUsed ∧ decode 0x1080 = .error .modifierNotUsed ∧
    decode 0x32FF = .error .reservedBitsSet ∧ decode 0x3004 = .error .positionTooLarge ∧
    decode 0x2220 = .error .reservedBitsSet ∧ decode 0x3360 = .error .reservedBitsSet ∧
    decode 0x2180 = .error .modifierNotUsed ∧ decode 0x4120 = .error .reservedBitsSet := by decide

/-- The assembler examples of R69 and their words. -/
theorem test_text_and_words_of_R69 :
    (Instr.krnd 5).text = "KRND 5" ∧ encode (.krnd 5) = 0x2105 ∧
    (Instr.kexp .zero).text = "KEXP.Z" ∧ encode (.kexp .zero) = 0x2280 ∧
    (Instr.rnd .dec 5).text = "RND.D 5" ∧ encode (.rnd .dec 5) = 0x3185 ∧
    (Instr.crypt .dec).text = "CRYPT.D" ∧ encode (.crypt .dec) = 0x3380 ∧
    (Instr.rdrk .enc 31).text = "RDRK.E 31" ∧ encode (.rdrk .enc 31) = 0x401F := by decide

/-- What the host asks of the decoder and of the step, on one row. -/
theorem test_host_entry :
    decodeTableWord 16 0x3185 = some (.rnd .dec 5) ∧ decodeTableWord 16 0x13000 = none ∧
    (State.reset.withFetchWord 16 0x4100).pending =
      [.transaction { cmd := 0x4100, din := 0, rkin := 0 }] := by decide

/-! ## Results: one transaction on a small state -/

/-- The key of V1. -/
def key1 : Block := 0x0123456789ABCDEFFEDCBA9876543210

/-- The host presents one transaction to a block with the given context. -/
def presented (c : Context) (cmd : CommandWord) (din : Block) (rkin : Word) : State :=
  { ctx := c, port := State.reset.port, answer := none,
    pending := [.transaction { cmd := cmd, din := din, rkin := rkin }] }

/-- The reset context. -/
def fresh : Context := State.reset.ctx

/-- The context of V1: round keys of `key1`. -/
def ready1 : Context := readyContext (keyExpand key1)

/-- `DOUT` and `STATUS` of a step. -/
def answerOf : StepOutcome → Option Answer
  | .next s => s.answer
  | .fault _ => none
  | .refused _ => none

/-- The context a step leaves. -/
def contextOf : StepOutcome → Option Context
  | .next s => some s.ctx
  | .fault _ => none
  | .refused _ => none

/-- V5: the upper operand bits are ignored. -/
theorem test_sbox_V5 :
    answerOf (step (presented fresh 0x1000 0xDEADBEEF0000000000000000FFFFFFEF 0)) = some ⟨0x84, .ok⟩ ∧
    sbox 0x71 = 0x00 ∧ sbox 0xB9 = 0xFF ∧ sbox 0x0F = 0x05 ∧ sbox 0xF0 = 0x18 := by decide +kernel

/-- V5: byte positions are kept. -/
theorem test_sbox32_V5 :
    answerOf (step (presented fresh 0x1100 0xAAAAAAAA55555555CCCCCCCC12345678 0)) = some ⟨0x9AC9DA4C, .ok⟩ ∧
    tau 0x00000100 = 0xD6D690D6 := by decide +kernel

/-- V5: the intermediate values of the isomorphic forms for `b = FF`. -/
theorem test_isomorphic_forms_V5 :
    linearSm4 0xFF ^^^ 0xD3 = 0x2C ∧ gfInv polySm4 0x2C = 0x38 ∧ affIn 0xFF = 0xA7 ∧
    gfInv polyAes 0xA7 = 0x48 ∧ affOutInv 0x48 = 0x48 ∧ sboxAes 0xA7 = 0x5C ∧ affOutAes 0x5C = 0x48 := by
  decide +kernel

/-- R96: the AES byte substitution's examples. -/
theorem test_aes_substitution_R96 :
    sboxAes 0x00 = 0x63 ∧ sboxAes 0x01 = 0x7C ∧ sboxAes 0x53 = 0xED := by decide +kernel

/-- V6. -/
theorem test_lenc_V6 :
    answerOf (step (presented fresh 0x1200 0xAAAAAAAA55555555CCCCCCCC12345678 0)) = some ⟨0xAA4E9357, .ok⟩ ∧
    lenc 0x80000000 = 0x80820202 := by decide +kernel

/-- V6. -/
theorem test_lkey_V6 :
    answerOf (step (presented fresh 0x1300 0x12345678 0)) = some ⟨0xA4F24E15, .ok⟩ ∧
    lkey 0x80000000 = 0x80401000 := by decide +kernel

/-- V6. -/
theorem test_tenc_V6 :
    answerOf (step (presented ready1 0x1400 0xDEADBEEF 0)) = some ⟨0xC2D6A551, .ok⟩ := by decide +kernel

/-- V6. -/
theorem test_tkey_V6 :
    answerOf (step (presented ready1 0x1500 0xDEADBEEF 0)) = some ⟨0x1D79E4A3, .ok⟩ := by decide +kernel

/-- V7: with `m = 1`, `DIN` is ignored. -/
theorem test_kinit_V7 :
    answerOf (step (presented fresh 0x2000 key1 0)) = some ⟨0xA292FFA1DF01FEBF99A12B0FC42410CC, .ok⟩ ∧
    answerOf (step (presented fresh 0x2080 (BitVec.allOnes 128) 0)) =
      some ⟨0xA3B1BAC656AA3350677D9197B27022DC, .ok⟩ := by decide +kernel

/-- V7: the window slides; the last round. -/
theorem test_krnd_V7 :
    answerOf (step (presented fresh 0x2100 0xA292FFA1DF01FEBF99A12B0FC42410CC 0)) =
      some ⟨0xDF01FEBF99A12B0FC42410CCF12186F9, .ok⟩ ∧
    answerOf (step (presented fresh 0x211F 0xF1780C81428D36546229349601CF72E5 0)) =
      some ⟨0x428D36546229349601CF72E59124A012, .ok⟩ := by decide +kernel

/-- V7: the round keys of the all-ones key, and `DOUT = 0`. -/
theorem test_kexp_V7 :
    answerOf (step (presented fresh 0x2200 (BitVec.allOnes 128) 0)) = some ⟨0, .ok⟩ ∧
    (contextOf (step (presented fresh 0x2200 (BitVec.allOnes 128) 0))).map
      (fun c => (c.erk[0], c.erk[17], c.drk[0], c.stat.valid)) =
      some (0x24354B4F, 0x62366535, 0x83B5F6B1, true) := by decide +kernel

/-- V10: `KEXP.Z` ignores `DIN`, and a second `KEXP` is locked out. -/
theorem test_kexp_V10 :
    (contextOf (step (presented fresh 0x2280 0x1234 0))).map (fun c => (c.erk[0], c.drk[0])) =
      some (0x45603B23, 0xA16CA108) ∧
    answerOf (step (presented ready1 0x2280 key1 0)) = some ⟨0, .contextLocked⟩ := by decide +kernel

/-- V8: position 1, then a position in the middle. -/
theorem test_rndx_V8 :
    answerOf (step (presented fresh 0x3001 0x00000000111111112222222233333333 0x01234567)) =
      some ⟨0x00000000040F88062222222233333333, .ok⟩ ∧
    answerOf (step (presented fresh 0x3002 0x00000000111111112222222233333333 0x01234567)) =
      some ⟨0x0000000011111111BC4284AC33333333, .ok⟩ := by decide +kernel

/-- V8: round 4 of each set. -/
theorem test_rnd_V8 :
    answerOf (step (presented ready1 0x3104 0x00000001000000020000000300000004 0)) =
      some ⟨0x9E5B50D1000000020000000300000004, .ok⟩ ∧
    answerOf (step (presented ready1 0x3184 0x00000001000000020000000300000004 0)) =
      some ⟨0xE02E079B000000020000000300000004, .ok⟩ := by decide +kernel

/-- V8: position 3, and no context. -/
theorem test_rnd_position_3_and_no_context_V8 :
    answerOf (step (presented ready1 0x311F key1 0)) = some ⟨0x0123456789ABCDEFFEDCBA983C7D92AB, .ok⟩ ∧
    answerOf (step (presented fresh 0x3100 key1 0)) = some ⟨0, .contextInvalid⟩ := by decide +kernel

/-- V8: words, not bytes, are reversed. -/
theorem test_rev_V8 :
    answerOf (step (presented fresh 0x3200 0x00112233445566778899AABBCCDDEEFF 0)) =
      some ⟨0xCCDDEEFF8899AABB4455667700112233, .ok⟩ := by decide +kernel

/-- V1, the source's known-answer vector. -/
theorem test_crypt_V1 :
    answerOf (step (presented ready1 0x3300 key1 0)) = some ⟨0x681EDF34D206965E86B3E94F536E4246, .ok⟩ := by
  decide +kernel

/-- V9: decrypting a block that is no ciphertext; no context. -/
theorem test_crypt_V9 :
    answerOf (step (presented ready1 0x3380 key1 0)) = some ⟨0x9338375E82EEC1CBBEF65EDF8757A631, .ok⟩ ∧
    answerOf (step (presented fresh 0x3380 key1 0)) = some ⟨0, .contextInvalid⟩ := by decide +kernel

/-- R182, V10. -/
theorem test_rdrk_R182 :
    answerOf (step (presented ready1 0x4080 key1 0)) = some ⟨0x9124A012, .ok⟩ ∧
    answerOf (step (presented fresh 0x409F key1 0)) = some ⟨0, .contextInvalid⟩ := by decide +kernel

/-- R183: 0 after reset, 1, 3 or 5 in `Ready` by strategy. -/
theorem test_rdst_R183 :
    answerOf (step (presented fresh 0x4100 key1 0)) = some ⟨0, .ok⟩ ∧
    answerOf (step (presented { fresh with stat := ⟨true, .table⟩ } 0x4100 0 0)) = some ⟨1, .ok⟩ ∧
    answerOf (step (presented { fresh with stat := ⟨true, .isoAes⟩ } 0x4100 0 0)) = some ⟨3, .ok⟩ ∧
    answerOf (step (presented { fresh with stat := ⟨true, .isoInv⟩ } 0x4100 0 0)) = some ⟨5, .ok⟩ := by
  decide +kernel

/-- R184. -/
theorem test_clr_R184 :
    answerOf (step (presented ready1 0x4200 key1 0)) = some ⟨0, .ok⟩ ∧
    contextOf (step (presented ready1 0x4200 key1 0)) = some State.reset.ctx := by decide +kernel

/-- R67 in `Ready`: the answer is zero and the context stays. -/
theorem test_illegal_word :
    answerOf (step (presented ready1 0x3004 key1 0)) = some ⟨0, .illegalCommand⟩ ∧
    (contextOf (step (presented ready1 0x3004 key1 0))).map (·.erk[0]) = some 0xF12186F9 := by decide +kernel

/-- R230: reset wins over a transaction not yet begun. -/
theorem test_reset_event :
    contextOf (step { presented ready1 0x3300 key1 0 with pending := [.reset] }) = some State.reset.ctx := by
  decide +kernel

/-! ## Witnesses: for every statement with hypotheses, values that meet them -/

/-- A context with `VALID = 1` keeps the invariant when `KEXP` made it. -/
theorem ready_of_keyExpand (key : Block) : (readyContext (keyExpand key)).Ready := by
  refine ⟨rfl, rfl, ⟨key, rfl⟩, fun i h => ?_⟩
  simp [readyContext]

theorem cleared_uninitialized : clearedContext.Uninitialized :=
  ⟨rfl, rfl, fun i h => ⟨clearedContext_erk i h, clearedContext_drk i h⟩⟩

theorem witness_ResetEventZeroesTheContext :
    { State.reset with pending := [.reset, .reset] }.pending = HostEvent.reset :: [.reset] := rfl

theorem witness_StepRunsTheDecodedCommand :
    (presented ready1 0x311F 0 0).pending = .transaction ⟨0x311F, 0, 0⟩ :: [] ∧
    decode 0x311F = .ok (.rnd .enc 31) := by decide

theorem witness_IdleStepHoldsTheContext : State.reset.pending = [] := rfl

theorem witness_WordOutsideTheMapAnswersIllegalCommand :
    (presented fresh 0x3004 0 0).pending = .transaction ⟨0x3004, 0, 0⟩ :: [] ∧
    ∀ row ∈ opcodeTable, row.selects 0x3004 = false := by decide

theorem witness_FetchWordIsRunByTheNextStep : decodeTableWord 16 0x401F = some (.rdrk .enc 31) := by decide

theorem witness_DecodeInvertsEncode : (Instr.rndx 3).WellFormed ∧ (Instr.rdrk .dec 31).WellFormed := by decide

theorem witness_EncodeInvertsDecode : decode 0x40FF = .error .reservedBitsSet ∧ decode 0x409F = .ok (.rdrk .dec 31) := by
  decide

theorem witness_OpcodeMapSelectsTheCommand :
    (⟨"RNDX", 0x3000, 0xFFFC⟩ : OpcodeRow) ∈ opcodeTable ∧
    (⟨"RNDX", 0x3000, 0xFFFC⟩ : OpcodeRow).selects 0x3003 = true ∧ decode 0x3003 = .ok (.rndx 3) := by decide

theorem witness_RotationMovesEachBit :
    (rol32 0x80000000 31).getLsbD ((31 + 31) % 32) = true ∧ (rol8 0x80 7).getLsbD ((7 + 7) % 8) = true := by decide

theorem witness_PortLanesAreBigEndian : (byteOf (1#128 <<< 127) 0).getLsbD 7 = true := by decide

theorem witness_SboxEqualsItsAlgebraicForm : (0xFF : Byte) ≠ 0 := by decide

theorem witness_DiffusionCommutesWithRotation : 0 < 31 ∧ 31 < 32 := by decide

theorem witness_RoundConstantsFollowTheFormula : ck[31].extractLsb' (24 - 8 * 3) 8 = 0x79 := by decide

/-- A word that the S-Box and `L` send to zero: with it as every round key, the all-zero block stays zero. -/
theorem witness_slidingWindow_of_zeros :
    (∀ j : Fin 4, (0 : Word) = wordOf 0 j) ∧ (∀ j : Fin 4, (0 : Word) = wordAtPosition ⟨0, 0, 0, 0⟩ j) ∧
    ∀ (r : Nat) (_ : r < 32), (0 : Word) =
      0 ^^^ tenc (0 ^^^ 0 ^^^ 0 ^^^ (Vector.replicate 32 (0x71717171 : Word))[r]) := by
  refine ⟨by decide, by decide, fun r h => ?_⟩
  rw [Vector.getElem_replicate]
  decide +kernel

/-- The rolling state of R133 without an end, for the witness below. -/
def rollingWindow (key : Block) : Nat → FourWords
  | 0 => keyStart key
  | n + 1 => keyRound (rollingWindow key n) (ck.getD n 0)

theorem witness_KeyExpandFollowsTheRollingState (key : Block) :
    let k := fun n => (rollingWindow key n).x0
    (k 0 = wordOf key 0 ^^^ 0xA3B1BAC6 ∧ k 1 = wordOf key 1 ^^^ 0x56AA3350 ∧
      k 2 = wordOf key 2 ^^^ 0x677D9197 ∧ k 3 = wordOf key 3 ^^^ 0xB27022DC) ∧
    ∀ (r : Nat) (_ : r < 32),
      k (r + 4) = k r ^^^ lkey (tau (k (r + 1) ^^^ k (r + 2) ^^^ k (r + 3) ^^^ ck[r])) := by
  refine ⟨⟨rfl, rfl, rfl, rfl⟩, fun r h => ?_⟩
  have hc : ck.getD r 0 = ck[r] := by simp [Vector.getD, h]
  show _ = _ ^^^ tkey (_ ^^^ _ ^^^ _ ^^^ ck[r])
  rw [← hc]
  rfl

theorem witness_FourRoundKeysDetermineTheKey :
    28 + 3 < 32 ∧ (keyExpand key1)[28] = 0x428D3654 ∧ (keyExpand key1)[31] = 0x9124A012 := by decide +kernel

/-- Illegal words at the edges of each opcode: the lowest and the highest forbidden bits. -/
theorem witness_illegal_words_of_each_opcode :
    (opField 0x1001 = 0x10 ∧ (0x1001 : CommandWord) ≠ 0x1000) ∧
    (opField 0x1180 = 0x11 ∧ (0x1180 : CommandWord) ≠ 0x1100) ∧
    (opField 0x12FF = 0x12 ∧ (0x12FF : CommandWord) ≠ 0x1200) ∧
    (opField 0x1340 = 0x13 ∧ (0x1340 : CommandWord) ≠ 0x1300) ∧
    (opField 0x1401 = 0x14 ∧ (0x1401 : CommandWord) ≠ 0x1400) ∧
    (opField 0x1501 = 0x15 ∧ (0x1501 : CommandWord) ≠ 0x1500) ∧
    (opField 0x20C0 = 0x20 ∧ (0x20C0 : CommandWord).extractLsb' 0 7 ≠ 0) ∧
    (opField 0x2120 = 0x21 ∧ (0x2120 : CommandWord).extractLsb' 5 3 ≠ 0) ∧
    (opField 0x2201 = 0x22 ∧ (0x2201 : CommandWord).extractLsb' 0 7 ≠ 0) ∧
    (opField 0x3004 = 0x30 ∧ (0x3004 : CommandWord).extractLsb' 2 6 ≠ 0) ∧
    (opField 0x31FF = 0x31 ∧ (0x31FF : CommandWord).extractLsb' 5 2 ≠ 0) ∧
    (opField 0x3201 = 0x32 ∧ (0x3201 : CommandWord) ≠ 0x3200) ∧
    (opField 0x33C0 = 0x33 ∧ (0x33C0 : CommandWord).extractLsb' 0 7 ≠ 0) ∧
    (opField 0x4040 = 0x40 ∧ (0x4040 : CommandWord).extractLsb' 5 2 ≠ 0) ∧
    (opField 0x4101 = 0x41 ∧ (0x4101 : CommandWord) ≠ 0x4100) ∧
    (opField 0x4280 = 0x42 ∧ (0x4280 : CommandWord) ≠ 0x4200) := by decide

/-- Both values of `VALID`, for the commands that check it. -/
theorem witness_both_context_states :
    (presented fresh 0x2200 0 0).ctx.stat.valid = false ∧ (presented ready1 0x2200 0 0).ctx.stat.valid = true ∧
    (presented fresh 0 0 0).ctx.Uninitialized ∧ (presented ready1 0 0 0).ctx.Ready :=
  ⟨rfl, rfl, cleared_uninitialized, ready_of_keyExpand key1⟩

/-- States that keep the invariant, one in each context state, with a step from each (R23, R171, R182, R183). -/
theorem witness_states_with_the_invariant :
    (presented fresh 0x2200 key1 0).Inv ∧ (presented ready1 0x3300 key1 0).Inv ∧
    (∃ t, step (presented fresh 0x2200 key1 0) = .next t) ∧
    (∃ t, step (presented ready1 0x3300 key1 0) = .next t) ∧ RoundKeySet.enc ≠ RoundKeySet.dec :=
  ⟨.inl cleared_uninitialized, .inr (ready_of_keyExpand key1), ⟨_, rfl⟩, ⟨_, rfl⟩, by decide⟩

/-- A command other than `RDST`, one that reads round keys, one that is context-free, one that is read-only. -/
theorem witness_kinds_of_commands :
    Instr.rnd .enc 31 ≠ .rdst ∧ ReadsRoundKeys (.rdrk .dec 31) ∧ ContextFree (.rndx 3) ∧ ReadOnly .rdst ∧
    Instr.kexp .din ≠ .clr ∧ (∃ t, exec .clr (presented ready1 0 0 0) = .next t ∧ t.ctx.stat.valid = false) :=
  ⟨by decide, trivial, trivial, trivial, by decide, _, rfl, rfl⟩

/-- A transaction of each status (R200, R204, R206). -/
theorem witness_each_status :
    answerOf (step (presented fresh 0x0000 0 0)) = some ⟨0, .illegalCommand⟩ ∧
    answerOf (step (presented fresh 0x3300 0 0)) = some ⟨0, .contextInvalid⟩ ∧
    answerOf (step (presented ready1 0x2200 0 0)) = some ⟨0, .contextLocked⟩ ∧
    answerOf (step (presented fresh 0x4200 0 0)) = some ⟨0, .ok⟩ := by decide +kernel

theorem witness_IllegalCommandWord : IllegalCommandWord 0xFFFF := ⟨.opcodeNotInTable, by decide⟩

/-- The four ways `VALID` is set, cleared or left. -/
theorem witness_ValidChangesOnlyByKexpClrAndReset :
    (contextOf (step (presented fresh 0x2280 0 0))).map (·.stat.valid) = some true ∧
    (contextOf (step (presented ready1 0x4200 0 0))).map (·.stat.valid) = some false ∧
    (contextOf (step (presented fresh 0x4100 0 0))).map (·.stat.valid) = some false ∧
    (contextOf (step (presented ready1 0x2200 0 0))).map (·.stat.valid) = some true := by decide +kernel

/-- Operand bits: `DIN` and `RKIN` that differ outside the operand of `SBOX` only. -/
theorem witness_OnlyOperandBitsMatter :
    (0xFF : Block) &&& dinMask .sbox = BitVec.allOnes 128 &&& dinMask .sbox ∧
    (0 : Word) &&& rkinMask .sbox = BitVec.allOnes 32 &&& rkinMask .sbox := by decide

/-- Two blocks with one context and different ports, for R30. -/
theorem witness_NoStateIsHidden :
    (presented ready1 0x3300 key1 0).ctx = ({ presented ready1 0x3300 key1 0 with
      port := ⟨0x1000, 1, 1⟩, answer := some ⟨1, .ok⟩ } : State).ctx := rfl

/-- A failed transaction with another behind it (R211). -/
theorem witness_FailedTransactionIsForgotten :
    answerOf (step { presented fresh 0 0 0 with
      pending := [.transaction ⟨0x4005, 0, 0⟩, .transaction ⟨0x2200, key1, 0⟩] }) = some ⟨0, .contextInvalid⟩ := by
  decide +kernel

theorem witness_ReadOnlyTransactionsInEitherOrder :
    decode 0x3300 = .ok (.crypt .enc) ∧ decode 0x4000 = .ok (.rdrk .enc 0) ∧
    ReadOnly (.crypt .enc) ∧ ReadOnly (.rdrk .enc 0) := ⟨by decide, by decide, trivial, trivial⟩

/-- Both Round Key Sets in a context that `KEXP` made, the invariant kept (R171). -/
theorem witness_DecryptionUndoesEncryption :
    (presented ready1 0x3300 key1 0).Inv ∧ (presented ready1 0x3300 key1 0).ctx.stat.valid = true ∧
    RoundKeySet.dec ≠ RoundKeySet.enc := ⟨.inr (ready_of_keyExpand key1), rfl, by decide⟩

/-- The 33 commands, of which the last two are `RND.D 31` and `REV`, in a context with `VALID = 1` (R172). -/
theorem witness_RoundsThenReverseEqualCrypt :
    (presented ready1 0x3380 key1 0).ctx.stat.valid = true ∧ (roundsThenReverse .dec).length = 33 ∧
    (roundsThenReverse .dec).drop 31 = [.rnd .dec 31, .rev] := by decide

/-- The last round number, both key sources, and a context with `VALID = 0` (R138). -/
theorem witness_KeyRoundsShowTheRoundKeysOfKexp :
    31 < 32 ∧ (presented fresh 0x2280 key1 0).ctx.stat.valid = false ∧
    keyRoundsUpTo .din 1 = [.kinit .din, .krnd 0, .krnd 1] ∧
    (keyRoundsUpTo .zero 31).drop 32 = [.krnd 31] := by decide

end Sys2Proof.Tests
end

section
/-! The proofs about the state (10_state.md): the invariant of the Round Key Sets, no hidden state, and reset. -/

namespace Sys2Proof.Machine

/-! ## What a step does, by the host's next event -/

section event
variable {s : State} {rest : List HostEvent} {r : Request}

theorem step_of_reset (hp : s.pending = .reset :: rest) : step s = .next (s.resetAsserted rest) := by
  simp only [step, hp]

theorem step_of_legal {i : Instr} (hp : s.pending = .transaction r :: rest) (hd : decode r.cmd = .ok i) :
    step s = exec i (s.present r rest) := by
  simp only [step, hp, hd]

theorem step_of_illegal {e : IllegalWord} (hp : s.pending = .transaction r :: rest)
    (hd : decode r.cmd = .error e) : step s = raise (s.present r rest) .illegalCommand := by
  simp only [step, hp, hd]
end event

/-! ## What a command and a step can leave in the context -/

/-- The context is written only by a `KEXP` while `VALID = 0` and by `CLR` (R49). -/
theorem exec_ctx_cases {i : Instr} {s t : State} (h : exec i s = .next t) :
    t.ctx = s.ctx ∨
    (∃ src, i = .kexp src ∧ s.ctx.stat.valid = false ∧
      t.ctx = readyContext (keyExpand (keyOperand src s.port.din))) ∨
    (i = .clr ∧ t.ctx = clearedContext) := by
  obtain ⟨v, st, hx⟩ | ⟨src, rfl, hv, hx⟩ | ⟨rfl, hx⟩ := exec_cases i s <;>
    obtain rfl := Host.Outcome.next.inj (hx.symm.trans h)
  · exact .inl rfl
  · exact .inr (.inl ⟨src, rfl, hv, rfl⟩)
  · exact .inr (.inr ⟨rfl, rfl⟩)

/-- The context after a step, and the event that wrote it: a `KEXP` while `VALID = 0`, a reset or a `CLR` (10_state.md section 3). -/
theorem step_ctx_cases {s t : State} (h : step s = .next t) :
    t.ctx = s.ctx ∨
    (∃ r rest src, s.pending = .transaction r :: rest ∧ decode r.cmd = .ok (.kexp src) ∧
      s.ctx.stat.valid = false ∧ t.ctx = readyContext (keyExpand (keyOperand src r.din))) ∨
    (((∃ rest, s.pending = .reset :: rest) ∨
      ∃ r rest, s.pending = .transaction r :: rest ∧ decode r.cmd = .ok .clr) ∧ t.ctx = clearedContext) := by
  obtain ⟨-, hx⟩ | ⟨rest, hp, hx⟩ | ⟨r, rest, e, -, -, hx⟩ | ⟨r, rest, i, hp, hd, hx⟩ := step_cases s
  · obtain rfl := Host.Outcome.next.inj (hx.symm.trans h)
    exact .inl rfl
  · obtain rfl := Host.Outcome.next.inj (hx.symm.trans h)
    exact .inr (.inr ⟨.inl ⟨rest, hp⟩, rfl⟩)
  · obtain rfl := Host.Outcome.next.inj (hx.symm.trans h)
    exact .inl rfl
  · obtain hc | ⟨src, rfl, hv, hc⟩ | ⟨rfl, hc⟩ := exec_ctx_cases (hx.symm.trans h)
    · exact .inl hc
    · exact .inr (.inl ⟨r, rest, src, hp, hd, hv, hc⟩)
    · exact .inr (.inr ⟨.inr ⟨r, rest, hp, hd⟩, hc⟩)

/-! ## The invariant (R23, R26) -/

theorem clearedContext_uninitialized : clearedContext.Uninitialized :=
  ⟨clearedContext_valid, clearedContext_bits, fun i hi => ⟨clearedContext_erk i hi, clearedContext_drk i hi⟩⟩

/-- What `KEXP` writes is a context in `Ready`, whatever the key (R135). -/
theorem readyContext_ready (key : Block) : (readyContext (keyExpand key)).Ready := by
  refine ⟨readyContext_valid _, readyContext_backend _, ⟨key, rfl⟩, fun i hi => ?_⟩
  simp

theorem step_keeps_inv {s t : State} (hs : s.Inv) (h : step s = .next t) : t.Inv := by
  unfold State.Inv
  obtain hc | ⟨r, rest, src, -, -, -, hc⟩ | ⟨-, hc⟩ := step_ctx_cases h <;> rw [hc]
  · exact hs
  · exact .inr (readyContext_ready _)
  · exact .inl clearedContext_uninitialized

theorem exec_keeps_ctx_of_valid {i : Instr} {s t : State} (hv : s.ctx.stat.valid = true) (hi : i ≠ .clr)
    (h : exec i s = .next t) : t.ctx = s.ctx := by
  obtain hc | ⟨src, -, hn, -⟩ | ⟨hclr, -⟩ := exec_ctx_cases h
  · exact hc
  · exact absurd hv (by simp [hn])
  · exact absurd hclr hi

/-- Settles O47: a step leaves the context, or writes what `KEXP`, `CLR` or reset write, and each of these keeps the invariant. -/
theorem everyStepKeepsTheRoundKeyInvariant : Obligations.EveryStepKeepsTheRoundKeyInvariant := by
  refine ⟨fun s t => step_keeps_inv, fun i s t hv hi h => ?_⟩
  have hc : t.ctx = s.ctx := exec_keeps_ctx_of_valid hv hi h
  exact ⟨congrArg Context.erk hc, congrArg Context.drk hc⟩

/-! ## What an outcome depends on (R30) -/

/-- Two outcomes that a host cannot tell apart: both complete, with the same context and the same answer. -/
def SameEffect (o p : StepOutcome) : Prop :=
  ∃ s u, o = .next s ∧ p = .next u ∧ s.ctx = u.ctx ∧ s.answer = u.answer

section sameEffect
variable {s u : State} (hc : s.ctx = u.ctx)
include hc

theorem complete_sameEffect (v : Block) : SameEffect (complete s v) (complete u v) :=
  ⟨_, _, rfl, rfl, hc, rfl⟩

theorem raise_sameEffect (st : Status) : SameEffect (raise s st) (raise u st) :=
  ⟨_, _, rfl, rfl, hc, rfl⟩

theorem requireReady_sameEffect {o p : StepOutcome} (hb : SameEffect o p) :
    SameEffect (requireReady s o) (requireReady u p) := by
  unfold requireReady
  rw [← hc]
  split
  · exact hb
  · exact raise_sameEffect hc _

theorem requireUninitialized_sameEffect {o p : StepOutcome} (hb : SameEffect o p) :
    SameEffect (requireUninitialized s o) (requireUninitialized u p) := by
  unfold requireUninitialized
  rw [← hc]
  split
  · exact raise_sameEffect hc _
  · exact hb

/-- A command's effect depends on the context and the ports only. -/
theorem exec_sameEffect (hp : s.port = u.port) (i : Instr) : SameEffect (exec i s) (exec i u) := by
  obtain ⟨c, p, _, _⟩ := s
  obtain ⟨_, _, _, _⟩ := u
  cases hc
  cases hp
  cases i with
  | rnd keys idx => exact requireReady_sameEffect (by rfl) (complete_sameEffect (by rfl) _)
  | crypt keys => exact requireReady_sameEffect (by rfl) (complete_sameEffect (by rfl) _)
  | rdrk keys idx => exact requireReady_sameEffect (by rfl) (complete_sameEffect (by rfl) _)
  | kexp src => exact requireUninitialized_sameEffect (by rfl) (complete_sameEffect (by rfl) _)
  | _ => exact complete_sameEffect (by rfl) _
end sameEffect

/-- Settles O50: with one next event, both states run the same command on the same context and ports. -/
theorem noStateIsHidden : Obligations.NoStateIsHidden := by
  intro s u e rest rest' hc hs hu
  cases e with
  | reset => exact ⟨_, _, step_of_reset hs, step_of_reset hu, rfl, rfl⟩
  | transaction r =>
    have hc' : (s.present r rest).ctx = (u.present r rest').ctx := hc
    cases hd : decode r.cmd with
    | error why =>
      rw [step_of_illegal hs hd, step_of_illegal hu hd]
      exact raise_sameEffect hc' _
    | ok i =>
      rw [step_of_legal hs hd, step_of_legal hu hd]
      exact exec_sameEffect hc' rfl i

/-! ## Reset (R31) -/

/-- Settles O1: the reset context is the one `CLR` writes, and that one is zero. -/
theorem resetStateIsZeroAndEqualsCleared : Obligations.ResetStateIsZeroAndEqualsCleared := by
  unfold Obligations.ResetStateIsZeroAndEqualsCleared
  simp only [← clearedContext_eq_reset]
  obtain ⟨hvalid, hbits, hkeys⟩ := clearedContext_uninitialized
  exact ⟨hkeys, hvalid, hbits, exec_clr⟩

end Sys2Proof.Machine
end

section
/-! The proofs about operand widths (20_memory.md): which bits of the ports a command reads, and which bits of `DOUT` it can set (R48). -/

namespace Sys2Proof.Machine

/-! ## The low `n` bits of a port -/

/-- Two ports that agree under the mask of the low `n` bits have the same low `n` bits. -/
theorem extractLsb'_eq_of_and_mask_eq {n : Nat} (hn : n ≤ 128) {d d' : Block}
    (h : d &&& (BitVec.allOnes n).setWidth 128 = d' &&& (BitVec.allOnes n).setWidth 128) :
    d.extractLsb' 0 n = d'.extractLsb' 0 n := by
  apply BitVec.eq_of_getLsbD_eq
  intro i hi
  have hbit := congrArg (BitVec.getLsbD · i) h
  simpa [hi, show i < 128 by omega] using hbit

/-- A zero-extended value lies under the mask of its own width. -/
theorem setWidth_and_not_mask {n : Nat} (v : BitVec n) :
    v.setWidth 128 &&& ~~~ (BitVec.allOnes n).setWidth 128 = 0 := by
  apply BitVec.eq_of_getLsbD_eq
  intro i hi
  by_cases hn : i < n
  · simp [hi, hn]
  · simp [BitVec.getLsbD_of_ge v i (by omega)]

theorem lowByte_eq_of_and_mask_eq {d d' : Block} (h : d &&& 0xFF = d' &&& 0xFF) : lowByte d = lowByte d' :=
  extractLsb'_eq_of_and_mask_eq (by decide) h

theorem lowWord_eq_of_and_mask_eq {d d' : Block} (h : d &&& 0xFFFFFFFF = d' &&& 0xFFFFFFFF) :
    lowWord d = lowWord d' := extractLsb'_eq_of_and_mask_eq (by decide) h

theorem zextByte_and_not_mask (b : Byte) : zextByte b &&& ~~~ 0xFF = 0 := setWidth_and_not_mask b

theorem zextWord_and_not_mask (w : Word) : zextWord w &&& ~~~ 0xFFFFFFFF = 0 := setWidth_and_not_mask w

theorem eq_of_and_allOnes_eq {n : Nat} {v w : BitVec n}
    (h : v &&& BitVec.allOnes n = w &&& BitVec.allOnes n) : v = w := by simpa using h

/-! ## Input operands -/

theorem dinMask_kexp (src : KeySource) : dinMask (.kexp src) = dinMask (.kinit src) := by cases src <;> rfl

/-- The key operand is read under the mask of `KINIT`, which is zero with the no-key flag (R137, R139). -/
theorem keyOperand_eq_of_and_mask_eq {src : KeySource} {d d' : Block}
    (h : d &&& dinMask (.kinit src) = d' &&& dinMask (.kinit src)) : keyOperand src d = keyOperand src d' := by
  cases src with
  | din => exact eq_of_and_allOnes_eq h
  | zero => rfl

section operands
variable {s u : State} (hc : s.ctx = u.ctx)
include hc

theorem complete_sameEffect_of_eq {v w : Block} (hv : v = w) : SameEffect (complete s v) (complete u w) :=
  hv ▸ complete_sameEffect hc v

/-- The five commands on a 32-bit operand read the low word of `DIN` only. -/
theorem complete_lowWord_sameEffect (f : Word → Word)
    (hd : s.port.din &&& 0xFFFFFFFF = u.port.din &&& 0xFFFFFFFF) :
    SameEffect (complete s (zextWord (f (lowWord s.port.din)))) (complete u (zextWord (f (lowWord u.port.din)))) :=
  complete_sameEffect_of_eq hc (congrArg (fun w => zextWord (f w)) (lowWord_eq_of_and_mask_eq hd))

/-- A command's effect depends on the context and on its operand bits only (R48). -/
theorem exec_sameEffect_of_operands (i : Instr) (hd : s.port.din &&& dinMask i = u.port.din &&& dinMask i)
    (hr : s.port.rkin &&& rkinMask i = u.port.rkin &&& rkinMask i) : SameEffect (exec i s) (exec i u) := by
  cases i with
  | sbox =>
    exact complete_sameEffect_of_eq hc (congrArg (fun b => zextByte (sbox b)) (lowByte_eq_of_and_mask_eq hd))
  | sbox32 => exact complete_lowWord_sameEffect hc tau hd
  | lenc => exact complete_lowWord_sameEffect hc lenc hd
  | lkey => exact complete_lowWord_sameEffect hc lkey hd
  | tenc => exact complete_lowWord_sameEffect hc tenc hd
  | tkey => exact complete_lowWord_sameEffect hc tkey hd
  | kinit src =>
    have hk := keyOperand_eq_of_and_mask_eq hd
    exact complete_sameEffect_of_eq hc (congrArg (fun k => packWords (keyStart k)) hk)
  | kexp src =>
    rw [dinMask_kexp] at hd
    have hw : (s.withContext (readyContext (keyExpand (keyOperand src s.port.din)))).ctx =
        (u.withContext (readyContext (keyExpand (keyOperand src u.port.din)))).ctx := by
      simp only [withContext_ctx, keyOperand_eq_of_and_mask_eq hd]
    exact requireUninitialized_sameEffect hc (complete_sameEffect hw 0)
  | krnd idx =>
    exact complete_sameEffect_of_eq hc
      (congrArg (fun d => packWords (keyRound (wordsOf d) (wordAt ck idx))) (eq_of_and_allOnes_eq hd))
  | rndx idx =>
    exact complete_sameEffect_of_eq hc
      (congrArg₂ (fun d rk => packWords (round (wordsOf d) (positionOf idx) rk))
        (eq_of_and_allOnes_eq hd) (eq_of_and_allOnes_eq hr))
  | rnd keys idx =>
    exact requireReady_sameEffect hc (complete_sameEffect_of_eq hc
      (congrArg₂ (fun d c => packWords (round (wordsOf d) (positionOf idx) (wordAt (keySet keys c) idx)))
        (eq_of_and_allOnes_eq hd) hc))
  | rev =>
    exact complete_sameEffect_of_eq hc
      (congrArg (fun d => packWords (reverseWords (wordsOf d))) (eq_of_and_allOnes_eq hd))
  | crypt keys =>
    exact requireReady_sameEffect hc (complete_sameEffect_of_eq hc
      (congrArg₂ (fun d c => crypt d (keySet keys c)) (eq_of_and_allOnes_eq hd) hc))
  | rdrk keys idx =>
    exact requireReady_sameEffect hc (complete_sameEffect_of_eq hc
      (congrArg (fun c => zextWord (wordAt (keySet keys c) idx)) hc))
  | rdst =>
    have hv : (ctxStatBits s.ctx.stat).setWidth 128 = (ctxStatBits u.ctx.stat).setWidth 128 := by rw [hc]
    exact complete_sameEffect_of_eq hc hv
  | clr => exact ⟨_, _, exec_clr s, exec_clr u, rfl, rfl⟩
end operands

/-! ## Output operands -/

/-- If the outcome answers, then only bits of `m` are set on `DOUT`. -/
def AnswersWithin (m : Block) (o : StepOutcome) : Prop :=
  ∀ t a, o = .next t → t.answer = some a → a.dout &&& ~~~ m = 0

section within
variable {m : Block} (s : State)

theorem complete_answersWithin {v : Block} (hv : v &&& ~~~ m = 0) : AnswersWithin m (complete s v) := by
  rintro _ _ ⟨⟩ ⟨⟩
  exact hv

theorem raise_answersWithin (st : Status) : AnswersWithin m (raise s st) := by
  rintro _ _ ⟨⟩ ⟨⟩
  exact BitVec.zero_and

theorem requireReady_answersWithin {o : StepOutcome} (ho : AnswersWithin m o) :
    AnswersWithin m (requireReady s o) := by
  unfold requireReady
  split
  · exact ho
  · exact raise_answersWithin s _

theorem requireUninitialized_answersWithin {o : StepOutcome} (ho : AnswersWithin m o) :
    AnswersWithin m (requireUninitialized s o) := by
  unfold requireUninitialized
  split
  · exact raise_answersWithin s _
  · exact ho

theorem complete_byte_answersWithin (b : Byte) : AnswersWithin 0xFF (complete s (zextByte b)) :=
  complete_answersWithin s (zextByte_and_not_mask b)

theorem complete_word_answersWithin (w : Word) : AnswersWithin 0xFFFFFFFF (complete s (zextWord w)) :=
  complete_answersWithin s (zextWord_and_not_mask w)

theorem complete_block_answersWithin (v : Block) : AnswersWithin (BitVec.allOnes 128) (complete s v) :=
  complete_answersWithin s (by simp)

theorem complete_zero_answersWithin : AnswersWithin m (complete s 0) :=
  complete_answersWithin s BitVec.zero_and

/-- A command sets only bits of its output operand (R48). -/
theorem exec_answersWithin (i : Instr) : AnswersWithin (doutMask i) (exec i s) := by
  cases i with
  | sbox => exact complete_byte_answersWithin s _
  | sbox32 | lenc | lkey | tenc | tkey => exact complete_word_answersWithin s _
  | kinit | krnd | rndx | rev => exact complete_block_answersWithin s _
  | rnd | crypt => exact requireReady_answersWithin s (complete_block_answersWithin s _)
  | rdrk => exact requireReady_answersWithin s (complete_word_answersWithin s _)
  | rdst => exact complete_answersWithin s (setWidth_and_not_mask (ctxStatBits s.ctx.stat))
  | kexp => exact requireUninitialized_answersWithin s (complete_zero_answersWithin _)
  | clr => exact complete_zero_answersWithin _
end within

/-- Settles O48: a command reads its ports under the operand masks only, and answers zero-extended values. -/
theorem onlyOperandBitsMatter : Obligations.OnlyOperandBitsMatter := by
  refine ⟨fun i s din rkin hd hr => ?_, fun i s => exec_answersWithin s i⟩
  obtain ⟨t, u, ht, hu, hctx, hans⟩ := exec_sameEffect_of_operands (s := s)
    (u := { s with port := { s.port with din := din, rkin := rkin } }) rfl i hd hr
  exact ⟨t, u, ht, hu, hans, hctx⟩

end Sys2Proof.Machine
end

section
/-! The proofs about the encoding (30_encoding.md): the legal words are the encodings of the well-formed commands, the opcode map selects the same words row by row (R66), and every transaction is answered (R61). -/

namespace Sys2Proof

/-! ## A command word is its four fields (R62) -/

section fields
variable (op : BitVec 8) (m : BitVec 1) (z : BitVec 2) (idx : Index)

theorem opField_append : opField (op ++ m ++ z ++ idx) = op :=
  calc (op ++ m ++ z ++ idx).extractLsb' 8 8
    _ = (op ++ m ++ z).extractLsb' 3 8 := BitVec.extractLsb'_append_eq_of_le (by decide)
    _ = (op ++ m).extractLsb' 1 8 := BitVec.extractLsb'_append_eq_of_le (by decide)
    _ = op := BitVec.extractLsb'_append_eq_left

theorem mField_append : mField (op ++ m ++ z ++ idx) = m :=
  calc (op ++ m ++ z ++ idx).extractLsb' 7 1
    _ = (op ++ m ++ z).extractLsb' 2 1 := BitVec.extractLsb'_append_eq_of_le (by decide)
    _ = (op ++ m).extractLsb' 0 1 := BitVec.extractLsb'_append_eq_of_le (by decide)
    _ = m := BitVec.extractLsb'_append_eq_right

theorem zField_append : zField (op ++ m ++ z ++ idx) = z :=
  calc (op ++ m ++ z ++ idx).extractLsb' 5 2
    _ = (op ++ m ++ z).extractLsb' 0 2 := BitVec.extractLsb'_append_eq_of_le (by decide)
    _ = z := BitVec.extractLsb'_append_eq_right

theorem idxField_append : idxField (op ++ m ++ z ++ idx) = idx := BitVec.extractLsb'_append_eq_right
end fields

theorem append_fields (w : CommandWord) : opField w ++ mField w ++ zField w ++ idxField w = w := by
  have hm : w.extractLsb' 8 8 ++ w.extractLsb' 7 1 = w.extractLsb' 7 9 :=
    BitVec.extractLsb'_append_extractLsb'_eq_extractLsb' rfl
  have hz : w.extractLsb' 7 9 ++ w.extractLsb' 5 2 = w.extractLsb' 5 11 :=
    BitVec.extractLsb'_append_extractLsb'_eq_extractLsb' rfl
  have hidx : w.extractLsb' 5 11 ++ w.extractLsb' 0 5 = w.extractLsb' 0 16 :=
    BitVec.extractLsb'_append_extractLsb'_eq_extractLsb' rfl
  rw [opField, mField, zField, idxField, hm, hz, hidx]
  exact BitVec.extractLsb'_eq_self

theorem extractLsb'_idxField {start len : Nat} (h : start + len ≤ 5) (w : CommandWord) :
    (idxField w).extractLsb' start len = w.extractLsb' start len := by
  apply BitVec.eq_of_getLsbD_eq
  intro i hi
  simp [idxField, show start + i < 5 by omega]

/-- The word holds the command's `op`, `m` and `idx`, and zero in `z`. -/
def HasFields (w : CommandWord) (i : Instr) : Prop :=
  opField w = opcode i ∧ mField w = modifier i ∧ zField w = 0 ∧ idxField w = index i

theorem hasFields_iff {w : CommandWord} {i : Instr} : HasFields w i ↔ encode i = w := by
  constructor
  · rintro ⟨hop, hm, hz, hidx⟩
    calc encode i = opField w ++ mField w ++ zField w ++ idxField w := by rw [hop, hm, hz, hidx]; rfl
      _ = w := append_fields w
  · rintro rfl
    exact ⟨opField_append .., mField_append .., zField_append .., idxField_append ..⟩

/-! ## Decoding, format by format (R63) -/

theorem keySourceOfBit_bitOfKeySource (src : KeySource) : keySourceOfBit (bitOfKeySource src) = src := by
  cases src <;> rfl

theorem keySetOfBit_bitOfKeySet (keys : RoundKeySet) : keySetOfBit (bitOfKeySet keys) = keys := by
  cases keys <;> rfl

theorem bitOfKeySource_keySourceOfBit (m : BitVec 1) : bitOfKeySource (keySourceOfBit m) = m := by
  revert m; decide

theorem bitOfKeySet_keySetOfBit (m : BitVec 1) : bitOfKeySet (keySetOfBit m) = m := by
  revert m; decide

section formats
variable {w : CommandWord} {i : Instr}

theorem formatF_eq_ok {j : Instr} :
    formatF w j = .ok i ↔ zField w = 0 ∧ mField w = 0 ∧ idxField w = 0 ∧ j = i := by
  unfold formatF
  split_ifs <;> simp_all

theorem formatM_eq_ok {j : BitVec 1 → Instr} :
    formatM w j = .ok i ↔ zField w = 0 ∧ idxField w = 0 ∧ j (mField w) = i := by
  unfold formatM
  split_ifs <;> simp_all

theorem formatX_eq_ok {j : Index → Instr} :
    formatX w j = .ok i ↔ zField w = 0 ∧ mField w = 0 ∧ j (idxField w) = i := by
  unfold formatX
  split_ifs <;> simp_all

theorem formatXM_eq_ok {j : BitVec 1 → Index → Instr} :
    formatXM w j = .ok i ↔ zField w = 0 ∧ j (mField w) (idxField w) = i := by
  unfold formatXM
  split_ifs <;> simp_all

theorem formatPosition_eq_ok {j : Index → Instr} :
    formatPosition w j = .ok i ↔
      (idxField w).extractLsb' 2 3 = 0 ∧ zField w = 0 ∧ mField w = 0 ∧ j (idxField w) = i := by
  unfold formatPosition
  split_ifs <;> simp_all [formatX_eq_ok]

/-- A legal word holds the fields of its command, which is well formed. -/
theorem hasFields_of_decode (h : decode w = .ok i) : i.WellFormed ∧ HasFields w i := by
  unfold decode at h
  split at h <;> rename_i hop
  -- format F
  case h_1 | h_2 | h_3 | h_4 | h_5 | h_6 | h_12 | h_15 | h_16 =>
    obtain ⟨hz, hm, hidx, rfl⟩ := formatF_eq_ok.mp h
    exact ⟨rfl, hop, hm, hz, hidx⟩
  -- format M
  case h_7 | h_9 =>
    obtain ⟨hz, hidx, rfl⟩ := formatM_eq_ok.mp h
    exact ⟨rfl, hop, (bitOfKeySource_keySourceOfBit _).symm, hz, hidx⟩
  case h_13 =>
    obtain ⟨hz, hidx, rfl⟩ := formatM_eq_ok.mp h
    exact ⟨rfl, hop, (bitOfKeySet_keySetOfBit _).symm, hz, hidx⟩
  -- format X
  case h_8 =>
    obtain ⟨hz, hm, rfl⟩ := formatX_eq_ok.mp h
    exact ⟨rfl, hop, hm, hz, rfl⟩
  case h_10 =>
    obtain ⟨hpos, hz, hm, rfl⟩ := formatPosition_eq_ok.mp h
    exact ⟨beq_iff_eq.mpr hpos, hop, hm, hz, rfl⟩
  -- format XM
  case h_11 | h_14 =>
    obtain ⟨hz, rfl⟩ := formatXM_eq_ok.mp h
    exact ⟨rfl, hop, (bitOfKeySet_keySetOfBit _).symm, hz, rfl⟩
  case h_17 => cases h

theorem decode_of_hasFields (hw : i.WellFormed) (h : HasFields w i) : decode w = .ok i := by
  obtain ⟨hop, hm, hz, hidx⟩ := h
  rw [decode, hop]
  cases i with
  | sbox | sbox32 | lenc | lkey | tenc | tkey | rev | rdst | clr =>
    exact formatF_eq_ok.mpr ⟨hz, hm, hidx, rfl⟩
  | kinit src =>
    exact formatM_eq_ok.mpr ⟨hz, hidx, congrArg Instr.kinit (hm ▸ keySourceOfBit_bitOfKeySource src)⟩
  | kexp src =>
    exact formatM_eq_ok.mpr ⟨hz, hidx, congrArg Instr.kexp (hm ▸ keySourceOfBit_bitOfKeySource src)⟩
  | crypt keys =>
    exact formatM_eq_ok.mpr ⟨hz, hidx, congrArg Instr.crypt (hm ▸ keySetOfBit_bitOfKeySet keys)⟩
  | krnd idx => exact formatX_eq_ok.mpr ⟨hz, hm, congrArg Instr.krnd hidx⟩
  | rndx idx =>
    have hpos : (idxField w).extractLsb' 2 3 = 0 := hidx ▸ beq_iff_eq.mp hw
    exact formatPosition_eq_ok.mpr ⟨hpos, hz, hm, congrArg Instr.rndx hidx⟩
  | rnd keys idx =>
    exact formatXM_eq_ok.mpr ⟨hz, congrArg₂ Instr.rnd (hm ▸ keySetOfBit_bitOfKeySet keys) hidx⟩
  | rdrk keys idx =>
    exact formatXM_eq_ok.mpr ⟨hz, congrArg₂ Instr.rdrk (hm ▸ keySetOfBit_bitOfKeySet keys) hidx⟩
end formats

/-- The legal words are the encodings of the well-formed commands. -/
theorem decode_eq_ok_iff {w : CommandWord} {i : Instr} : decode w = .ok i ↔ i.WellFormed ∧ encode i = w := by
  rw [← hasFields_iff]
  exact ⟨hasFields_of_decode, fun ⟨hw, h⟩ => decode_of_hasFields hw h⟩

/-! ## The rows of the opcode map (R66) -/

theorem tableRow (i : Instr) : Laws.TableRow.Statement i := by
  cases i with
  | sbox => exact Laws.TableRow.sbox
  | sbox32 => exact Laws.TableRow.sbox32
  | lenc => exact Laws.TableRow.lenc
  | lkey => exact Laws.TableRow.lkey
  | tenc => exact Laws.TableRow.tenc
  | tkey => exact Laws.TableRow.tkey
  | kinit src => exact Laws.TableRow.kinit src
  | krnd idx => exact Laws.TableRow.krnd idx
  | kexp src => exact Laws.TableRow.kexp src
  | rndx idx => exact Laws.TableRow.rndx idx
  | rnd keys idx => exact Laws.TableRow.rnd keys idx
  | rev => exact Laws.TableRow.rev
  | crypt keys => exact Laws.TableRow.crypt keys
  | rdrk keys idx => exact Laws.TableRow.rdrk keys idx
  | rdst => exact Laws.TableRow.rdst
  | clr => exact Laws.TableRow.clr

theorem exists_row_of_decode {w : CommandWord} {i : Instr} (h : decode w = .ok i) :
    ∃ row ∈ opcodeTable, row.selects w = true ∧ row.mnemonic = i.mnemonic := by
  obtain ⟨hw, rfl⟩ := decode_eq_ok_iff.mp h
  obtain ⟨-, row, hrow, hname, hsel⟩ := tableRow i hw
  exact ⟨row, hrow, hsel, hname⟩

section selects
variable {row : OpcodeRow} {w : CommandWord}

/-- A selected word agrees with the row's match on each slice that the row's mask covers. -/
theorem extractLsb'_of_selects {start len : Nat} (h : row.selects w = true)
    (hmask : row.mask.extractLsb' start len = BitVec.allOnes len) :
    w.extractLsb' start len = row.pattern.extractLsb' start len := by
  calc w.extractLsb' start len = (w &&& row.mask).extractLsb' start len := by
        rw [BitVec.extractLsb'_and, hmask, BitVec.and_allOnes]
    _ = row.pattern.extractLsb' start len := by rw [beq_iff_eq.mp h]

theorem opField_of_selects (hrow : row ∈ opcodeTable) (h : row.selects w = true) :
    opField w = opField row.pattern := by
  have covered : ∀ row ∈ opcodeTable, opField row.mask = BitVec.allOnes 8 := by decide
  exact extractLsb'_of_selects h (covered row hrow)

theorem zField_of_selects (hrow : row ∈ opcodeTable) (h : row.selects w = true) : zField w = 0 := by
  have covered : ∀ row ∈ opcodeTable, zField row.mask = BitVec.allOnes 2 ∧ zField row.pattern = 0 := by decide
  obtain ⟨hmask, hpat⟩ := covered row hrow
  exact (extractLsb'_of_selects h hmask).trans hpat

theorem rows_disjoint {row' : OpcodeRow} (hrow : row ∈ opcodeTable) (hrow' : row' ∈ opcodeTable)
    (h : row.selects w = true) (h' : row'.selects w = true) : row = row' := by
  have hop : opField row.pattern = opField row'.pattern :=
    (opField_of_selects hrow h).symm.trans (opField_of_selects hrow' h')
  have opcodes_differ : ∀ row ∈ opcodeTable, ∀ row' ∈ opcodeTable,
      opField row.pattern = opField row'.pattern → row = row' := by decide
  exact opcodes_differ row hrow row' hrow' hop

/-- Where the mask is all ones the row has one word, its match. -/
theorem formatF_of_selects {i : Instr} (h : row.selects w = true) (hmask : row.mask = BitVec.allOnes 16)
    (hpat : formatF row.pattern i = .ok i) : formatF w i = .ok i := by
  have hw : w &&& row.mask = row.pattern := beq_iff_eq.mp h
  rwa [← hw, hmask, BitVec.and_allOnes] at hpat

theorem exists_command_of_selects (hrow : row ∈ opcodeTable) (h : row.selects w = true) :
    ∃ i, decode w = .ok i ∧ i.mnemonic = row.mnemonic := by
  have hop := opField_of_selects hrow h
  have hz := zField_of_selects hrow h
  unfold decode
  rw [hop]
  simp only [opcodeTable, List.cons_append, List.nil_append, List.mem_cons, List.not_mem_nil, or_false] at hrow
  obtain rfl | rfl | rfl | rfl | rfl | rfl | rfl | rfl | rfl | rfl | rfl | rfl | rfl | rfl | rfl | rfl := hrow
  · exact ⟨.sbox, formatF_of_selects h rfl rfl, rfl⟩
  · exact ⟨.sbox32, formatF_of_selects h rfl rfl, rfl⟩
  · exact ⟨.lenc, formatF_of_selects h rfl rfl, rfl⟩
  · exact ⟨.lkey, formatF_of_selects h rfl rfl, rfl⟩
  · exact ⟨.tenc, formatF_of_selects h rfl rfl, rfl⟩
  · exact ⟨.tkey, formatF_of_selects h rfl rfl, rfl⟩
  · have hidx : idxField w = 0 := extractLsb'_of_selects h rfl
    exact ⟨_, formatM_eq_ok.mpr ⟨hz, hidx, rfl⟩, rfl⟩
  · have hm : mField w = 0 := extractLsb'_of_selects h rfl
    exact ⟨_, formatX_eq_ok.mpr ⟨hz, hm, rfl⟩, rfl⟩
  · have hidx : idxField w = 0 := extractLsb'_of_selects h rfl
    exact ⟨_, formatM_eq_ok.mpr ⟨hz, hidx, rfl⟩, rfl⟩
  · have hm : mField w = 0 := extractLsb'_of_selects h rfl
    have hpos : (idxField w).extractLsb' 2 3 = 0 := by
      rw [extractLsb'_idxField (by decide)]
      exact extractLsb'_of_selects h rfl
    exact ⟨_, formatPosition_eq_ok.mpr ⟨hpos, hz, hm, rfl⟩, rfl⟩
  · exact ⟨_, formatXM_eq_ok.mpr ⟨hz, rfl⟩, rfl⟩
  · exact ⟨.rev, formatF_of_selects h rfl rfl, rfl⟩
  · have hidx : idxField w = 0 := extractLsb'_of_selects h rfl
    exact ⟨_, formatM_eq_ok.mpr ⟨hz, hidx, rfl⟩, rfl⟩
  · exact ⟨_, formatXM_eq_ok.mpr ⟨hz, rfl⟩, rfl⟩
  · exact ⟨.rdst, formatF_of_selects h rfl rfl, rfl⟩
  · exact ⟨.clr, formatF_of_selects h rfl rfl, rfl⟩
end selects

/-! ## The legal words, listed -/

def allIndices : List Index := (List.range 32).map (BitVec.ofNat 5)

theorem mem_allIndices (idx : Index) : idx ∈ allIndices :=
  List.mem_map.mpr ⟨idx.toNat, List.mem_range.mpr idx.isLt, BitVec.ofNat_toNat ..⟩

/-- The commands of the formats `F` and `M`, with every modifier. -/
def commandsWithoutIndex : List Instr :=
  [.sbox, .sbox32, .lenc, .lkey, .tenc, .tkey, .rev, .rdst, .clr,
    .kinit .din, .kinit .zero, .kexp .din, .kexp .zero, .crypt .enc, .crypt .dec]

/-- The commands of the formats `X` and `XM` with the given index, with every modifier. -/
def commandsWithIndex (idx : Index) : List Instr :=
  [.krnd idx, .rndx idx, .rnd .enc idx, .rnd .dec idx, .rdrk .enc idx, .rdrk .dec idx]

def allCommands : List Instr := commandsWithoutIndex ++ allIndices.flatMap commandsWithIndex

theorem mem_allCommands (i : Instr) : i ∈ allCommands := by
  unfold allCommands
  cases i with
  | krnd idx | rndx idx =>
    exact List.mem_append_right _ (List.mem_flatMap.mpr ⟨idx, mem_allIndices idx, by simp [commandsWithIndex]⟩)
  | rnd keys idx | rdrk keys idx =>
    exact List.mem_append_right _
      (List.mem_flatMap.mpr ⟨idx, mem_allIndices idx, by cases keys <;> simp [commandsWithIndex]⟩)
  | kinit src | kexp src => exact List.mem_append_left _ (by cases src <;> decide)
  | crypt keys => exact List.mem_append_left _ (by cases keys <;> decide)
  | _ => exact List.mem_append_left _ (by decide)

theorem index_of_mem_commandsWithIndex {idx : Index} {i : Instr} (h : i ∈ commandsWithIndex idx) : index i = idx := by
  simp only [commandsWithIndex, List.mem_cons, List.not_mem_nil, or_false] at h
  obtain rfl | rfl | rfl | rfl | rfl | rfl := h <;> rfl

theorem allCommands_nodup : allCommands.Nodup := by
  have hindices : allIndices.Nodup := by decide
  refine List.Nodup.append (by decide) (List.nodup_flatMap.mpr ⟨?_, ?_⟩) ?_
  · intro idx _
    simp [commandsWithIndex]
  · refine hindices.imp fun hne i h h' => hne ?_
    exact (index_of_mem_commandsWithIndex h).symm.trans (index_of_mem_commandsWithIndex h')
  · intro i h h'
    obtain ⟨idx, -, h'⟩ := List.mem_flatMap.mp h'
    simp only [commandsWithIndex, List.mem_cons, List.not_mem_nil, or_false] at h'
    obtain rfl | rfl | rfl | rfl | rfl | rfl := h' <;> simp [commandsWithoutIndex] at h

def legalWords : List CommandWord := (allCommands.filter Instr.wellFormed).map encode

theorem mem_legalWords {w : CommandWord} : w ∈ legalWords ↔ ∃ i, decode w = .ok i := by
  simp [legalWords, mem_allCommands, decode_eq_ok_iff]

theorem encode_injective_of_wellFormed {i j : Instr} (hi : i.WellFormed) (hj : j.WellFormed)
    (h : encode i = encode j) : i = j :=
  Except.ok.inj ((decode_eq_ok_iff.mpr ⟨hi, h⟩).symm.trans (decode_eq_ok_iff.mpr ⟨hj, rfl⟩))

theorem legalWords_nodup : legalWords.Nodup :=
  (allCommands_nodup.filter _).map_on fun _ hi _ hj =>
    encode_injective_of_wellFormed (List.mem_filter.mp hi).2 (List.mem_filter.mp hj).2

theorem legalWords_length : legalWords.length = 179 := by
  rw [legalWords, List.length_map]
  decide +kernel

/-- Settles O9: a legal word and the row it selects agree through the word's fields. -/
theorem opcodeMapSelectsTheCommand : Obligations.OpcodeMapSelectsTheCommand := by
  unfold Obligations.OpcodeMapSelectsTheCommand
  refine ⟨?_, ?_, ?_, ?_, rfl, legalWords, legalWords_nodup, legalWords_length, fun _ => mem_legalWords⟩
  · exact fun w row hrow h => exists_command_of_selects hrow h
  · exact fun w i h => exists_row_of_decode h
  · exact fun w row hrow row' hrow' h h' => rows_disjoint hrow hrow' h h'
  · exact fun w i h => (hasFields_of_decode h).2

end Sys2Proof

namespace Sys2Proof.Machine

/-! ## Every transaction is answered (R61) -/

theorem exec_answers (i : Instr) (s : State) :
    ∃ t a, exec i s = .next t ∧ t.answer = some a ∧ t.pending = s.pending := by
  obtain ⟨v, st, hx⟩ | ⟨src, -, -, hx⟩ | ⟨-, hx⟩ := exec_cases i s
  · exact ⟨_, _, hx, answered_answer .., answered_pending ..⟩
  · exact ⟨_, _, hx, answered_answer .., (answered_pending ..).trans (withContext_pending ..)⟩
  · exact ⟨_, _, hx, answered_answer .., (answered_pending ..).trans (withContext_pending ..)⟩

theorem step_answers_transaction {s : State} {r : Request} {rest : List HostEvent}
    (hp : s.pending = .transaction r :: rest) :
    ∃ t a, step s = .next t ∧ t.answer = some a ∧ t.pending = rest := by
  cases hd : decode r.cmd with
  | error e => exact ⟨_, _, step_of_illegal hp hd, rfl, rfl⟩
  | ok i =>
    rw [step_of_legal hp hd]
    exact exec_answers i (s.present r rest)

/-- Settles O40: a legal word's command answers, an illegal word is answered by `raise`, and `step` is a function. -/
theorem everyTransactionIsAnswered : Obligations.EveryTransactionIsAnswered := by
  intro s r rest hp
  obtain ⟨t, a, hx, ha, hrest⟩ := step_answers_transaction hp
  exact ⟨t, a, hx, ha, hrest, fun t' h => Host.Outcome.next.inj (h.symm.trans hx)⟩

end Sys2Proof.Machine
end

section
/-! The proofs about the S-Box (40_sbox.md): its algebraic form over the SM4 field, the table's properties that follow, and the commands `SBOX` and `SBOX32`. -/

namespace Sys2Proof.Machine

/-! ## The words of format `F` (R63) -/

/-- The commands with neither a modifier nor an index. -/
def HasFormatF : Instr → Prop
  | .sbox | .sbox32 | .lenc | .lkey | .tenc | .tkey | .rev | .rdst | .clr => True
  | .kinit _ | .krnd _ | .kexp _ | .rndx _ | .rnd _ _ | .crypt _ | .rdrk _ _ => False

section formatF
variable {i : Instr} (hi : HasFormatF i)
include hi

theorem decode_eq_formatF {w : CommandWord} (hop : opField w = opcode i) : decode w = formatF w i := by
  rw [decode, hop]
  cases i with
  | sbox | sbox32 | lenc | lkey | tenc | tkey | rev | rdst | clr => rfl
  | _ => exact hi.elim

theorem decode_encode_of_hasFormatF : decode (encode i) = .ok i := by
  have hw : i.WellFormed := by
    cases i with
    | rndx _ => exact hi.elim
    | _ => rfl
  exact decode_eq_ok_iff.mpr ⟨hw, rfl⟩

/-- A command of format `F` has one word: every other word with its `op` is illegal (R67). -/
theorem illegalCommandWord_of_ne_encode {w : CommandWord} (hop : opField w = opcode i) (hw : w ≠ encode i) :
    IllegalCommandWord w := by
  cases hd : decode w with
  | error e => exact ⟨e, hd⟩
  | ok j =>
    obtain ⟨-, henc⟩ := decode_eq_ok_iff.mp hd
    obtain ⟨-, -, -, rfl⟩ := formatF_eq_ok.mp ((decode_eq_formatF hi hop).symm.trans hd)
    exact absurd henc.symm hw
end formatF

/-! ## The affine map of the algebraic form (R94) -/

/-- The inverse of `A`: as polynomials in the rotation, `1 + x^2 + x^7` inverts `1 + x + x^3 + x^6 + x^7` modulo `x^8 + 1`. -/
def linearSm4Inv (v : Byte) : Byte := v ^^^ rol8 v 2 ^^^ rol8 v 7

/-- `A(b) ^ C` with `C = 0xD3`, applied before and after the field inverse. -/
def affineSm4 : Equiv.Perm Byte where
  toFun b := linearSm4 b ^^^ 0xD3
  invFun v := linearSm4Inv (v ^^^ 0xD3)
  left_inv := by
    unfold Function.LeftInverse
    decide +kernel
  right_inv := by
    unfold Function.RightInverse Function.LeftInverse
    decide +kernel

/-! ## The field on natural numbers

The kernel computes the field operations much faster in this form, where a step is arithmetic on numerals and has no test. -/

def gfDoubleNat (poly v : Nat) : Nat := 2 * v % 256 ^^^ v / 128 * poly

/-- The product of `v` and the low `n` bits of `c`. -/
def gfMulNat (poly v : Nat) : Nat → Nat → Nat
  | 0, _ => 0
  | n + 1, c => c % 2 * v ^^^ gfDoubleNat poly (gfMulNat poly v n (c / 2))

def gfPowOnesNat (poly v : Nat) : Nat → Nat
  | 0 => 1
  | n + 1 => gfMulNat poly v 8 (gfMulNat poly (gfPowOnesNat poly v n) 8 (gfPowOnesNat poly v n))

def gfInvNat (poly v : Nat) : Nat := gfMulNat poly (gfPowOnesNat poly v 7) 8 (gfPowOnesNat poly v 7)

section nat
variable (poly v : Byte)

theorem toNat_gfDouble : (gfDouble poly v).toNat = gfDoubleNat poly.toNat v.toNat := by
  have hshift : (v <<< 1).toNat = 2 * v.toNat % 256 := by simp [Nat.shiftLeft_eq, Nat.mul_comm]
  have hv : v.toNat < 256 := v.isLt
  have hmsb : v.getMsbD 0 = decide (128 ≤ v.toNat) := BitVec.msb_eq_decide v
  unfold gfDouble gfDoubleNat
  by_cases h : 128 ≤ v.toNat
  · simp [hmsb, h, hshift, show v.toNat / 128 = 1 by omega]
  · simp [hmsb, h, hshift, show v.toNat / 128 = 0 by omega]

theorem toNat_gfMulBits (c : Byte) (i n : Nat) :
    (gfMulBits poly v c i n).toNat = gfMulNat poly.toNat v.toNat n (c.toNat / 2 ^ i) := by
  induction n generalizing i with
  | zero => rfl
  | succ n ih =>
    have hbit : (if c.getLsbD i then v else 0).toNat = c.toNat / 2 ^ i % 2 * v.toNat := by
      rw [BitVec.getLsbD, Nat.testBit_eq_decide_div_mod_eq]
      obtain h | h := Nat.mod_two_eq_zero_or_one (c.toNat / 2 ^ i) <;> simp [h]
    have hrest : c.toNat / 2 ^ i / 2 = c.toNat / 2 ^ (i + 1) := by rw [Nat.div_div_eq_div_mul, pow_succ]
    rw [gfMulBits, gfMulNat, BitVec.toNat_xor, toNat_gfDouble, ih, hbit, hrest]

theorem toNat_gfMul (c : Byte) : (gfMul poly v c).toNat = gfMulNat poly.toNat v.toNat 8 c.toNat := by
  rw [gfMul, toNat_gfMulBits, pow_zero, Nat.div_one]

theorem toNat_gfPowOnes (n : Nat) : (gfPowOnes poly v n).toNat = gfPowOnesNat poly.toNat v.toNat n := by
  induction n with
  | zero => rfl
  | succ n ih => rw [gfPowOnes, gfPowOnesNat, toNat_gfMul, toNat_gfMul, ih]

theorem toNat_gfInv : (gfInv poly v).toNat = gfInvNat poly.toNat v.toNat := by
  rw [gfInv, gfInvNat, toNat_gfMul, toNat_gfPowOnes]
end nat

/-! ## The table and the field inverse determine each other -/

/-- The field inverse by one look into the table. -/
def gfInvByTable (v : Byte) : Byte := affineSm4.symm (sbox (affineSm4.symm v))

/-- Only here is the power 254 computed; every other fact about `gfInv polySm4` is read off the table. -/
theorem gfInv_polySm4_eq_gfInvByTable (v : Byte) : gfInv polySm4 v = gfInvByTable v := by
  have power : ∀ v : Byte, gfInvNat polySm4.toNat v.toNat = (gfInvByTable v).toNat := by decide +kernel
  exact BitVec.eq_of_toNat_eq ((toNat_gfInv polySm4 v).trans (power v))

theorem sbox_eq_comp : sbox = affineSm4 ∘ gfInv polySm4 ∘ affineSm4 := by
  funext b
  simp [gfInv_polySm4_eq_gfInvByTable, gfInvByTable]

theorem sbox_eq_sboxAlgebraic (b : Byte) : sbox b = sboxAlgebraic b := congrFun sbox_eq_comp b

theorem gfInv_polySm4_zero : gfInv polySm4 0 = 0 := by
  rw [gfInv_polySm4_eq_gfInvByTable]
  decide

theorem gfMul_gfInv_polySm4 (v : Byte) (hv : v ≠ 0) : gfMul polySm4 v (gfInv polySm4 v) = 1 := by
  have table : ∀ v : Byte, v ≠ 0 → gfMul polySm4 v (gfInvByTable v) = 1 := by decide +kernel
  rw [gfInv_polySm4_eq_gfInvByTable]
  exact table v hv

theorem gfInv_polySm4_involutive : Function.Involutive (gfInv polySm4) := by
  have table : ∀ v : Byte, gfInvByTable (gfInvByTable v) = v := by decide +kernel
  intro v
  rw [gfInv_polySm4_eq_gfInvByTable, gfInv_polySm4_eq_gfInvByTable]
  exact table v

/-- Settles O14: the table against the power 254 on every byte, and the inverse law from the table. -/
theorem sboxEqualsItsAlgebraicForm : Obligations.SboxEqualsItsAlgebraicForm :=
  ⟨gfMul_gfInv_polySm4, gfInv_polySm4_zero, sbox_eq_sboxAlgebraic⟩

/-! ## The table's properties (R92) -/

/-- The S-Box is the field inverse, an involution, between two affine permutations. -/
theorem sbox_bijective : Function.Bijective sbox := by
  rw [sbox_eq_comp]
  exact affineSm4.bijective.comp (gfInv_polySm4_involutive.bijective.comp affineSm4.bijective)

theorem sbox_eq_self_iff : ∀ b : Byte, sbox b = b ↔ b = 0xAB := by decide +kernel

theorem sbox_ne_complement : ∀ b : Byte, sbox b ≠ b ^^^ 0xFF := by decide +kernel

/-- Settles O13: bijective by the algebraic form, the fixed point and the complements by the table. -/
theorem sboxTableProperties : Obligations.SboxTableProperties :=
  ⟨sbox_bijective, by decide, by decide, by decide, sbox_eq_self_iff, sbox_ne_complement, by decide⟩

/-! ## The commands (R97, R98) -/

theorem exec_sbox (s : State) :
    exec .sbox s = .next (s.answered (zextByte (sbox (lowByte s.port.din))) .ok) := rfl

theorem exec_sbox32 (s : State) :
    exec .sbox32 s = .next (s.answered (zextWord (tau (lowWord s.port.din))) .ok) := rfl

/-- `tau` of the operand, from the bytes of the port. -/
theorem tau_lowWord (d : Block) :
    tau (lowWord d) =
      sbox (d.extractLsb' 24 8) ++ sbox (d.extractLsb' 16 8) ++
        sbox (d.extractLsb' 8 8) ++ sbox (d.extractLsb' 0 8) := by
  have hbyte {k : Nat} (hk : k + 8 ≤ 32) : (lowWord d).extractLsb' k 8 = d.extractLsb' k 8 :=
    BitVec.extractLsb'_extractLsb'_of_le hk
  rw [tau, hbyte (by decide), hbyte (by decide), hbyte (by decide), hbyte (by decide)]

/-- Settles O24: `0x1000` is the one word of `SBOX`, and `SBOX` answers with the table's entry and does nothing else. -/
theorem sboxCommandSubstitutesTheLowByte : Obligations.SboxCommandSubstitutesTheLowByte := by
  refine ⟨?_, ?_, exec_sbox, by decide, by decide, by decide, by decide⟩
  · exact decode_encode_of_hasFormatF (i := .sbox) trivial
  · exact fun w => illegalCommandWord_of_ne_encode (i := .sbox) trivial

/-- Settles O25: `0x1100` is the one word of `SBOX32`, and `SBOX32` answers with `tau` of its operand and does nothing else. -/
theorem sbox32CommandSubstitutesFourBytes : Obligations.Sbox32CommandSubstitutesFourBytes := by
  refine ⟨?_, ?_, fun s => ?_, by decide, by decide⟩
  · exact decode_encode_of_hasFormatF (i := .sbox32) trivial
  · exact fun w => illegalCommandWord_of_ne_encode (i := .sbox32) trivial
  · rw [exec_sbox32, tau_lowWord]
    rfl

end Sys2Proof.Machine
end

section
/-! The proofs about linear diffusion (41_linear_diffusion.md): `L` and `Ltag` are sums of an odd number of rotations, of which every property they share follows, `T` is a bijection but not linear, and the four commands. -/

namespace Sys2Proof.Machine

/-! ## Rotations -/

theorem rotateLeft_rotateLeft {w : Nat} (v : BitVec w) (m n : Nat) :
    (v.rotateLeft m).rotateLeft n = v.rotateLeft (m + n) := by
  apply BitVec.eq_of_getMsbD_eq
  intro i hi
  have hmod : (n + i) % w < w := Nat.mod_lt _ (by omega)
  simp [BitVec.getMsbD_rotateLeft, hi, hmod, Nat.add_assoc]

theorem rotateLeft_xor (a b : Word) (n : Nat) :
    (a ^^^ b).rotateLeft n = a.rotateLeft n ^^^ b.rotateLeft n := by
  have hmod : n % 32 < 32 := Nat.mod_lt n (by decide)
  simpa only [rol32_eq_rotateLeft _ hmod, BitVec.rotateLeft_mod_eq_rotateLeft] using rol32_xor a b (n % 32)

theorem rotateLeft_of_dvd {n : Nat} (v : Word) (h : 32 ∣ n) : v.rotateLeft n = v := by
  simp [BitVec.rotateLeft_def, Nat.mod_eq_zero_of_dvd h, BitVec.ushiftRight_eq_zero]

/-! ## Sums of rotations -/

/-- The exclusive-or of the rotations of `t` by the amounts listed: the polynomial `x^n₁ + x^n₂ + …` in the rotation. -/
def rotationSum : List Nat → Word → Word
  | [], _ => 0
  | n :: ns, t => t.rotateLeft n ^^^ rotationSum ns t

@[simp] theorem rotationSum_nil (t : Word) : rotationSum [] t = 0 := rfl

@[simp] theorem rotationSum_cons (n : Nat) (ns : List Nat) (t : Word) :
    rotationSum (n :: ns) t = t.rotateLeft n ^^^ rotationSum ns t := rfl

section rotationSum
variable (ns : List Nat)

theorem rotationSum_xor (a b : Word) : rotationSum ns (a ^^^ b) = rotationSum ns a ^^^ rotationSum ns b := by
  induction ns with
  | nil => simp
  | cons n ns ih =>
    rw [rotationSum_cons, rotationSum_cons, rotationSum_cons, ih, rotateLeft_xor]
    ac_rfl

theorem rotationSum_rotateLeft (t : Word) (m : Nat) :
    rotationSum ns (t.rotateLeft m) = (rotationSum ns t).rotateLeft m := by
  induction ns with
  | nil => simp [BitVec.rotateLeft_def]
  | cons n ns ih =>
    rw [rotationSum_cons, rotationSum_cons, ih, rotateLeft_xor, rotateLeft_rotateLeft, rotateLeft_rotateLeft,
      Nat.add_comm]

theorem rotationSum_rol32 (t : Word) {m : Nat} (hm : m < 32) :
    rotationSum ns (rol32 t m) = rol32 (rotationSum ns t) m := by
  simp only [rol32_eq_rotateLeft _ hm, rotationSum_rotateLeft]

/-- Squaring a polynomial over GF(2) squares each term: the mixed terms cancel in pairs. -/
theorem rotationSum_rotationSum (t : Word) :
    rotationSum ns (rotationSum ns t) = rotationSum (ns.map (2 * ·)) t := by
  induction ns with
  | nil => rfl
  | cons n ns ih =>
    have hsquare : (t.rotateLeft n).rotateLeft n = t.rotateLeft (2 * n) := by
      rw [rotateLeft_rotateLeft, Nat.two_mul]
    calc rotationSum (n :: ns) (rotationSum (n :: ns) t)
      _ = (t.rotateLeft (2 * n) ^^^ (rotationSum ns t).rotateLeft n) ^^^
          ((rotationSum ns t).rotateLeft n ^^^ rotationSum (ns.map (2 * ·)) t) := by
        simp only [rotationSum_cons, rotateLeft_xor, rotationSum_xor, rotationSum_rotateLeft, hsquare, ih]
      _ = rotationSum ((n :: ns).map (2 * ·)) t := by simp [BitVec.xor_assoc]

theorem iterate_rotationSum (k : Nat) : (rotationSum ns)^[2 ^ k] = rotationSum (ns.map (2 ^ k * ·)) := by
  induction k with
  | zero => simp
  | succ k ih =>
    funext t
    rw [pow_succ', Nat.two_mul, Function.iterate_add_apply, ih, rotationSum_rotationSum, List.map_map]
    simp [Function.comp_def, Nat.add_mul, Nat.two_mul]

/-- Terms that leave `t` as it is cancel in pairs. -/
theorem rotationSum_of_fixed {t : Word} (h : ∀ n ∈ ns, t.rotateLeft n = t) :
    rotationSum ns t = if Odd ns.length then t else 0 := by
  induction ns with
  | nil => rfl
  | cons n ns ih =>
    obtain ⟨hn, hns⟩ := List.forall_mem_cons.mp h
    rw [rotationSum_cons, hn, ih hns, List.length_cons]
    by_cases hodd : Odd ns.length <;> simp [hodd, Nat.odd_add_one]

/-- The power `2^5` of an odd number of rotations is the identity, so the power 31 computes back. -/
theorem rotationSum_bijective (h : Odd ns.length) : Function.Bijective (rotationSum ns) := by
  have hpower (t : Word) : (rotationSum ns)^[2 ^ 5] t = t := by
    have hfixed : ∀ n ∈ ns.map (2 ^ 5 * ·), t.rotateLeft n = t := by simp [rotateLeft_of_dvd]
    rw [iterate_rotationSum, rotationSum_of_fixed _ hfixed, List.length_map, if_pos h]
  have hleft : Function.LeftInverse (rotationSum ns)^[31] (rotationSum ns) := hpower
  exact Finite.injective_iff_bijective.mp hleft.injective
end rotationSum

/-! ## The S-Box on a word -/

theorem word_eq_of_lanes {v w : Word} (h : ∀ k : Fin 4, v.extractLsb' (8 * k.val) 8 = w.extractLsb' (8 * k.val) 8) :
    v = w := by
  apply BitVec.eq_of_getLsbD_eq
  intro i hi
  have hbit := congrArg (BitVec.getLsbD · (i % 8)) (h ⟨i / 8, by omega⟩)
  simpa [Nat.mod_lt, Nat.div_add_mod] using hbit

theorem tau_bijective : Function.Bijective tau := by
  refine Finite.injective_iff_bijective.mp fun v w h => word_eq_of_lanes fun k => ?_
  apply sbox_bijective.injective
  rw [← tau_lane, h, tau_lane]

/-! ## `L` and `Ltag` -/

theorem lenc_eq_rotateLeft (t : Word) :
    lenc t = t ^^^ t.rotateLeft 2 ^^^ t.rotateLeft 10 ^^^ t.rotateLeft 18 ^^^ t.rotateLeft 24 := by
  simp only [lenc, rol32_eq_rotateLeft, Nat.reduceLT]

theorem lkey_eq_rotateLeft (t : Word) : lkey t = t ^^^ t.rotateLeft 13 ^^^ t.rotateLeft 23 := by
  simp only [lkey, rol32_eq_rotateLeft, Nat.reduceLT]

/-- `L` is `1 + x^2 + x^10 + x^18 + x^24` in the rotation (R110). -/
theorem lenc_eq_rotationSum : lenc = rotationSum [0, 2, 10, 18, 24] := by
  funext t
  simp [lenc_eq_rotateLeft, rotateLeft_of_dvd, BitVec.xor_assoc]

/-- `Ltag` is `1 + x^13 + x^23` in the rotation (R112). -/
theorem lkey_eq_rotationSum : lkey = rotationSum [0, 13, 23] := by
  funext t
  simp [lkey_eq_rotateLeft, rotateLeft_of_dvd, BitVec.xor_assoc]

theorem lenc_bijective : Function.Bijective lenc := by
  rw [lenc_eq_rotationSum]
  exact rotationSum_bijective _ (by decide)

theorem lkey_bijective : Function.Bijective lkey := by
  rw [lkey_eq_rotationSum]
  exact rotationSum_bijective _ (by decide)

/-- Settles O16: `L` is a sum of five rotations. -/
theorem encryptionDiffusionIsALinearBijection : Obligations.EncryptionDiffusionIsALinearBijection := by
  refine ⟨?_, by decide, ?_, by decide, by decide, by decide, lenc_bijective⟩ <;> rw [lenc_eq_rotationSum]
  · exact rotationSum_xor _
  · exact fun t n _ hn => rotationSum_rol32 _ t hn

/-- Settles O17: `Ltag` is a sum of three rotations. -/
theorem keyDiffusionIsALinearBijection : Obligations.KeyDiffusionIsALinearBijection := by
  refine ⟨?_, by decide, ?_, by decide, by decide, by decide, lkey_bijective⟩ <;> rw [lkey_eq_rotationSum]
  · exact rotationSum_xor _
  · exact fun t n _ hn => rotationSum_rol32 _ t hn

/-! ## `T` -/

theorem tenc_zero : tenc 0 = 0x5B5B5B5B := by decide

theorem tenc_bijective : Function.Bijective tenc := lenc_bijective.comp tau_bijective

/-- Settles O18: `T` is a bijection after a bijection, and it is not linear because it does not send zero to zero. -/
theorem roundSubstitutionIsANonlinearBijection : Obligations.RoundSubstitutionIsANonlinearBijection := by
  refine ⟨fun w => rfl, by decide, tenc_zero, tenc_bijective, fun hlinear => ?_⟩
  have hzero : tenc 0 = 0 := by simpa using hlinear 0 0
  exact absurd (tenc_zero.symm.trans hzero) (by decide)

/-! ## The commands (R116 to R119) -/

section exec
variable (s : State)

theorem exec_lenc : exec .lenc s = .next (s.answered (zextWord (lenc (lowWord s.port.din))) .ok) := rfl
theorem exec_lkey : exec .lkey s = .next (s.answered (zextWord (lkey (lowWord s.port.din))) .ok) := rfl
theorem exec_tenc : exec .tenc s = .next (s.answered (zextWord (tenc (lowWord s.port.din))) .ok) := rfl
theorem exec_tkey : exec .tkey s = .next (s.answered (zextWord (tkey (lowWord s.port.din))) .ok) := rfl
end exec

/-- Settles O26: `0x1200` is the one word of `LENC`, and `LENC` answers with `L` of its operand and does nothing else. -/
theorem lencCommandDiffusesTheLowWord : Obligations.LencCommandDiffusesTheLowWord := by
  refine ⟨decode_encode_of_hasFormatF (i := .lenc) trivial,
    fun w => illegalCommandWord_of_ne_encode (i := .lenc) trivial, ?_⟩
  rintro s t rfl
  rw [exec_lenc, lenc_eq_rotateLeft]
  rfl

/-- Settles O27: `0x1300` is the one word of `LKEY`, and `LKEY` answers with `Ltag` of its operand and does nothing else. -/
theorem lkeyCommandDiffusesTheLowWord : Obligations.LkeyCommandDiffusesTheLowWord := by
  refine ⟨decode_encode_of_hasFormatF (i := .lkey) trivial,
    fun w => illegalCommandWord_of_ne_encode (i := .lkey) trivial, ?_⟩
  rintro s t rfl
  rw [exec_lkey, lkey_eq_rotateLeft]
  rfl

/-- Settles O28: `0x1400` is the one word of `TENC`, and `TENC` answers with `L(tau(w))` of its operand and does nothing else. -/
theorem tencCommandSubstitutesThenDiffuses : Obligations.TencCommandSubstitutesThenDiffuses := by
  refine ⟨decode_encode_of_hasFormatF (i := .tenc) trivial,
    fun w => illegalCommandWord_of_ne_encode (i := .tenc) trivial, ?_, tenc_zero, by decide, by decide⟩
  rintro s t rfl
  rw [exec_tenc, tenc, lenc_eq_rotateLeft]
  rfl

/-- Settles O29: `0x1500` is the one word of `TKEY`, and `TKEY` answers with `Ltag(tau(w))` of its operand and does nothing else. -/
theorem tkeyCommandSubstitutesThenDiffuses : Obligations.TkeyCommandSubstitutesThenDiffuses := by
  refine ⟨decode_encode_of_hasFormatF (i := .tkey) trivial,
    fun w => illegalCommandWord_of_ne_encode (i := .tkey) trivial, ?_, by decide, by decide, by decide⟩
  rintro s t rfl
  rw [exec_tkey, tkey, lkey_eq_rotateLeft]
  rfl

end Sys2Proof.Machine
end

section
/-! The proofs about the key schedule (42_key_schedule.md): the words of format `M`, the formula of `CK`, the window of `KeyExpand` on the rolling state, and the commands `KINIT` and `KEXP`. -/

namespace Sys2Proof.Machine

/-! ## The words of format `M` (R63) -/

/-- The commands with a modifier and no index. -/
def HasFormatM : Instr → Prop
  | .kinit _ | .kexp _ | .crypt _ => True
  | .sbox | .sbox32 | .lenc | .lkey | .tenc | .tkey | .krnd _ | .rndx _ | .rnd _ _ | .rev | .rdrk _ _ | .rdst
  | .clr => False

theorem zField_append_idxField (w : CommandWord) : zField w ++ idxField w = w.extractLsb' 0 7 :=
  BitVec.extractLsb'_append_extractLsb'_eq_extractLsb' rfl

/-- Format `M` uses `m` only: a word with its `op` and a bit set in `z` or `idx` is illegal (R67). -/
theorem illegalCommandWord_of_formatM {i : Instr} (hi : HasFormatM i) {w : CommandWord}
    (hop : opField w = opcode i) (hlow : w.extractLsb' 0 7 ≠ 0) : IllegalCommandWord w := by
  cases hd : decode w with
  | error e => exact ⟨e, hd⟩
  | ok j =>
    obtain ⟨hz, hidx⟩ : zField w = 0 ∧ idxField w = 0 := by
      rw [decode, hop] at hd
      cases i with
      | kinit _ | kexp _ | crypt _ =>
        obtain ⟨hz, hidx, -⟩ := formatM_eq_ok.mp hd
        exact ⟨hz, hidx⟩
      | _ => exact hi.elim
    refine absurd ?_ hlow
    rw [← zField_append_idxField, hz, hidx]
    rfl

/-! ## The round constants (R132) -/

/-- Settles O19: the printed table, entry by entry. -/
theorem roundConstantsFollowTheFormula : Obligations.RoundConstantsFollowTheFormula := by
  unfold Obligations.RoundConstantsFollowTheFormula
  decide

/-! ## The rolling state (R133) -/

/-- After `n` rounds the window holds `k[n..n+3]` of the rolling state. -/
theorem keyWindow_eq_of_recurrence {key : Block} {k : Nat → Word} (hstart : keyStart key = ⟨k 0, k 1, k 2, k 3⟩)
    (hround : ∀ (r : Nat) (_ : r < 32), k (r + 4) = k r ^^^ tkey (k (r + 1) ^^^ k (r + 2) ^^^ k (r + 3) ^^^ ck[r]))
    (n : Nat) (h : n ≤ 32) : keyWindow key n h = ⟨k n, k (n + 1), k (n + 2), k (n + 3)⟩ := by
  induction n with
  | zero => exact hstart
  | succ n ih => rw [keyWindow_succ, ih, keyRound, ← hround n h]

/-- Settles O21: round key `r` is the last word of the window after `r + 1` rounds. -/
theorem keyExpandFollowsTheRollingState : Obligations.KeyExpandFollowsTheRollingState := by
  intro key k h0 h1 h2 h3 hround r hr
  have hstart : keyStart key = ⟨k 0, k 1, k 2, k 3⟩ := by rw [h0, h1, h2, h3]; rfl
  rw [keyExpand_getElem, keyWindow_eq_of_recurrence hstart hround]

/-! ## The commands (R137, R139) -/

theorem withContext_answered (s : State) (c : Context) (v : Block) (st : Status) :
    (s.withContext c).answered v st = { s with ctx := c, answer := some { dout := v, status := st } } := rfl

theorem exec_kinit (src : KeySource) (s : State) :
    exec (.kinit src) s = .next (s.answered (packWords (keyStart (keyOperand src s.port.din))) .ok) := rfl

/-- For the all-zero key the words are `FK` itself. -/
theorem packWords_keyStart_zero : packWords (keyStart 0) = 0xA3B1BAC656AA3350677D9197B27022DC := by decide

/-- Settles O30: `m` is the one free bit of the words of `KINIT`, and `KINIT` answers with the start of the rolling state and does nothing else. -/
theorem kinitCommandAddsTheSystemConstants : Obligations.KinitCommandAddsTheSystemConstants := by
  refine ⟨decode_eq_ok_iff.mpr ⟨rfl, rfl⟩, decode_eq_ok_iff.mpr ⟨rfl, rfl⟩,
    fun w => illegalCommandWord_of_formatM (i := .kinit .din) trivial, exec_kinit .din, fun s => ?_⟩
  rw [exec_kinit, keyOperand_zero, packWords_keyStart_zero]
  rfl

/-- Settles O32: `m` is the one free bit of the words of `KEXP`, and `KEXP` writes the context of the key's round keys, or is locked out. -/
theorem kexpCommandDerivesBothRoundKeySets : Obligations.KexpCommandDerivesBothRoundKeySets := by
  refine ⟨decode_eq_ok_iff.mpr ⟨rfl, rfl⟩, decode_eq_ok_iff.mpr ⟨rfl, rfl⟩,
    fun w => illegalCommandWord_of_formatM (i := .kexp .din) trivial,
    fun src s => exec_kexp_of_valid src, fun src s key hv hkey => ?_⟩
  have hkey : keyOperand src s.port.din = key := by cases src <;> exact hkey.symm
  refine ⟨readyContext (keyExpand key), ?_, readyContext_valid _, readyContext_backend _, fun r hr => ⟨rfl, ?_⟩⟩
  · rw [exec_kexp_of_not_valid src hv, hkey, withContext_answered]
  · rw [readyContext_drk, Vector.getElem_reverse]

end Sys2Proof.Machine
end

section
/-! The proofs about the round function (43_round_function.md): the round as an involution that keeps the sliding window in place, and the commands `RNDX` and `REV`. -/

namespace Sys2Proof.Machine

/-! ## The round (R152) -/

theorem round_word_of_ne (x : FourWords) {pos j : Fin 4} (rk : Word) (h : j ≠ pos) :
    wordAtPosition (round x pos rk) j = wordAtPosition x j := by
  rw [round_word, if_neg h]

/-- The argument of `T` leaves out the word at `pos`, so a second round with the same key takes the first one back. -/
theorem round_round (x : FourWords) (pos : Fin 4) (rk : Word) : round (round x pos rk) pos rk = x := by
  apply eq_of_wordAtPosition_eq
  intro j
  by_cases hj : j = pos
  · have h1 : pos + 1 ≠ pos := by simp
    have h2 : pos + 2 ≠ pos := by simp
    have h3 : pos + 3 ≠ pos := by simp
    rw [hj, round_word, if_pos rfl, round_word_of_ne x rk h1, round_word_of_ne x rk h2, round_word_of_ne x rk h3,
      round_word, if_pos rfl, BitVec.xor_assoc, BitVec.xor_self, BitVec.xor_zero]
  · rw [round_word_of_ne _ rk hj, round_word_of_ne x rk hj]

/-! ## The sliding window in place (R152) -/

/-- The four words hold `X[n..n+3]`, each `X[i]` at position `i mod 4`. -/
def HoldsWindow (X : Nat → Word) (n : Nat) (x : FourWords) : Prop :=
  ∀ i, n ≤ i → i < n + 4 → wordAtPosition x (Fin.ofNat 4 i) = X i

section window
variable {X : Nat → Word} {x : FourWords}

theorem holdsWindow_zero (hstart : ∀ j : Fin 4, X j.val = wordAtPosition x j) : HoldsWindow X 0 x := by
  intro i _ hi
  rw [← hstart, Fin.val_ofNat, Nat.mod_eq_of_lt (by omega)]

theorem HoldsWindow.word_add {n : Nat} (hx : HoldsWindow X n x) (j : Fin 4) :
    wordAtPosition x (Fin.ofNat 4 n + j) = X (n + j.val) := by
  rw [Fin.ofNat_add]
  exact hx (n + j.val) (Nat.le_add_right n j.val) (Nat.add_lt_add_left j.isLt n)

/-- Round `n` overwrites `X[n]`, the one word that leaves the window, with `X[n+4]`, the one that enters it. -/
theorem HoldsWindow.succ_round {n : Nat} {rk : Word} (hx : HoldsWindow X n x)
    (hnext : X (n + 4) = X n ^^^ tenc (X (n + 1) ^^^ X (n + 2) ^^^ X (n + 3) ^^^ rk)) :
    HoldsWindow X (n + 1) (round x (Fin.ofNat 4 n) rk) := by
  intro i hlo hhi
  by_cases hi : i = n + 4
  · have hpos : Fin.ofNat 4 i = Fin.ofNat 4 n := by ext; simp [hi]
    have h0 : wordAtPosition x (Fin.ofNat 4 n) = X n := hx n le_rfl (by omega)
    have h1 : wordAtPosition x (Fin.ofNat 4 n + 1) = X (n + 1) := hx.word_add 1
    have h2 : wordAtPosition x (Fin.ofNat 4 n + 2) = X (n + 2) := hx.word_add 2
    have h3 : wordAtPosition x (Fin.ofNat 4 n + 3) = X (n + 3) := hx.word_add 3
    rw [hi, hnext, ← h0, ← h1, ← h2, ← h3, ← hi, hpos, round_word, if_pos rfl]
  · have hpos : Fin.ofNat 4 i ≠ Fin.ofNat 4 n := by
      rw [Ne, Fin.ext_iff, Fin.val_ofNat, Fin.val_ofNat]
      omega
    rw [round_word_of_ne x rk hpos, hx i (by omega) (by omega)]

theorem cryptRounds_holdsWindow {rk : Vector Word 32} (hstart : ∀ j : Fin 4, X j.val = wordAtPosition x j)
    (hround : ∀ (r : Nat) (_ : r < 32), X (r + 4) = X r ^^^ tenc (X (r + 1) ^^^ X (r + 2) ^^^ X (r + 3) ^^^ rk[r]))
    (n : Nat) (h : n ≤ 32) : HoldsWindow X n (cryptRounds rk x n h) := by
  induction n with
  | zero => exact holdsWindow_zero hstart
  | succ n ih => exact (ih (Nat.le_of_succ_le h)).succ_round (hround n h)
end window

/-- Settles O20: a round changes the word at its position only, takes itself back, and slides the window one word on. -/
theorem roundIsAnInvolutionAndSlidesTheWindow : Obligations.RoundIsAnInvolutionAndSlidesTheWindow :=
  ⟨fun x _ _ rk => round_word_of_ne x rk, round_round, fun _ _ _ => cryptRounds_holdsWindow⟩

/-! ## The words of `RNDX` (R63) -/

theorem decode_rndx (pos : BitVec 2) : decode (0x30#8 ++ 0#6 ++ pos) = .ok (.rndx (pos.setWidth 5)) := by
  revert pos
  decide

theorem mField_append_zField_append_idxField_high (w : CommandWord) :
    mField w ++ zField w ++ (idxField w).extractLsb' 2 3 = w.extractLsb' 2 6 := by
  have hz : w.extractLsb' 7 1 ++ w.extractLsb' 5 2 = w.extractLsb' 5 3 :=
    BitVec.extractLsb'_append_extractLsb'_eq_extractLsb' rfl
  rw [extractLsb'_idxField (by decide), mField, zField, hz]
  exact BitVec.extractLsb'_append_extractLsb'_eq_extractLsb' rfl

/-- `RNDX` uses `idx[1:0]` only: a word with its `op` and a bit set above them is illegal (R67). -/
theorem illegalCommandWord_of_rndx {w : CommandWord} (hop : opField w = 0x30) (hhigh : w.extractLsb' 2 6 ≠ 0) :
    IllegalCommandWord w := by
  cases hd : decode w with
  | error e => exact ⟨e, hd⟩
  | ok j =>
    rw [decode, hop] at hd
    obtain ⟨hpos, hz, hm, -⟩ := formatPosition_eq_ok.mp hd
    refine absurd ?_ hhigh
    rw [← mField_append_zField_append_idxField_high, hm, hz, hpos]
    rfl

/-! ## The commands (R153, R155) -/

theorem exec_rndx (idx : Index) (s : State) :
    exec (.rndx idx) s =
      .next (s.answered (packWords (round (wordsOf s.port.din) (positionOf idx) s.port.rkin)) .ok) := rfl

theorem exec_rev (s : State) :
    exec .rev s = .next (s.answered (packWords (reverseWords (wordsOf s.port.din))) .ok) := rfl

/-- The words of a port after a round, each from the words of the port before. -/
theorem wordOf_packWords_round (d : Block) (pos : Fin 4) (rk : Word) (j : Fin 4) :
    wordOf (packWords (round (wordsOf d) pos rk)) j =
      if j = pos then
        wordOf d j ^^^ tenc (wordOf d (j + 1) ^^^ wordOf d (j + 2) ^^^ wordOf d (j + 3) ^^^ rk)
      else wordOf d j := by
  simp only [wordOf_packWords, round_word, wordAtPosition_wordsOf]
  split_ifs with hj
  · rw [hj]
  · rfl

/-- Settles O33: `idx[1:0]` are the free bits of the words of `RNDX`, and `RNDX` answers with one round, which is an involution, and does nothing else. -/
theorem rndxCommandReplacesTheWordAtItsPosition : Obligations.RndxCommandReplacesTheWordAtItsPosition := by
  refine ⟨decode_rndx, fun w => illegalCommandWord_of_rndx, fun idx s => ⟨_, exec_rndx idx s, fun j => ?_, ?_⟩, tenc_zero⟩
  · simp only [wordOf_packWords_round, Fin.ext_iff]
    rfl
  · rw [exec_rndx, wordsOf_packWords, round_round, packWords_wordsOf]
    rfl

/-- Settles O35: `0x3200` is the one word of `REV`, and `REV` answers with the words in reverse order and does nothing else. -/
theorem revCommandReversesTheWords : Obligations.RevCommandReversesTheWords := by
  refine ⟨decode_encode_of_hasFormatF (i := .rev) trivial,
    fun w => illegalCommandWord_of_ne_encode (i := .rev) trivial, fun s => ⟨_, exec_rev s, fun j => ?_, ?_⟩⟩
  · rw [wordOf_packWords, wordAtPosition_reverseWords, wordAtPosition_wordsOf]
  · rw [exec_rev, wordsOf_packWords, reverseWords_reverseWords, packWords_wordsOf]
    rfl

end Sys2Proof.Machine
end

section
/-! The proofs about the single-block core (44_single_block_core.md): the output words in the sliding-window numbering, and decryption as the same rounds run backwards on the reversed words. -/

namespace Sys2Proof.Machine

/-! ## The output (R170) -/

/-- With `n` a multiple of 4 the window stands in order: `X[n+j]` at position `j`. -/
theorem HoldsWindow.wordAtPosition_of_dvd {X : Nat → Word} {n : Nat} {x : FourWords} (hx : HoldsWindow X n x)
    (hn : 4 ∣ n) (j : Fin 4) : wordAtPosition x j = X (n + j.val) := by
  have hpos : Fin.ofNat 4 n = 0 := Fin.ext (Nat.mod_eq_zero_of_dvd hn)
  rw [← hx.word_add j, hpos, zero_add]

/-- Settles O23: after 32 rounds the window holds `X[32..35]`, in order since 4 divides 32. -/
theorem cryptOutputsTheLastFourWordsReversed : Obligations.CryptOutputsTheLastFourWordsReversed := by
  intro block rk X hstart hround
  have hwindow : HoldsWindow X 32 (cryptRounds rk (wordsOf block) 32 le_rfl) :=
    cryptRounds_holdsWindow (fun j => (hstart j).trans (wordAtPosition_wordsOf block j).symm) hround 32 le_rfl
  have hrounds : cryptRounds rk (wordsOf block) 32 le_rfl = ⟨X 32, X 33, X 34, X 35⟩ := by
    apply eq_of_wordAtPosition_eq
    intro j
    rw [hwindow.wordAtPosition_of_dvd (by decide)]
    fin_cases j <;> rfl
  refine ⟨?_, hrounds⟩
  rw [crypt, hrounds]
  rfl

/-! ## Decryption (R171) -/

/-- The argument of `T` is the same sum in either order of the words, so a round on reversed words is a round at the mirrored position. -/
theorem round_reverseWords (x : FourWords) (pos : Fin 4) (rk : Word) :
    round (reverseWords x) pos rk = reverseWords (round x (3 - pos) rk) := by
  have h1 : 3 - (pos + 1) = 3 - pos + 3 := by revert pos; decide
  have h2 : 3 - (pos + 2) = 3 - pos + 2 := by revert pos; decide
  have h3 : 3 - (pos + 3) = 3 - pos + 1 := by revert pos; decide
  have hsum (a b c : Word) : c ^^^ b ^^^ a = a ^^^ b ^^^ c := by ac_rfl
  apply eq_of_wordAtPosition_eq
  intro j
  simp only [wordAtPosition_reverseWords, round_word, sub_right_inj, h1, h2, h3]
  rw [hsum (wordAtPosition x (3 - pos + 1))]

/-- Each round with the reversed keys takes back the last round not yet taken back. -/
theorem cryptRounds_reverse (rk : Vector Word 32) (x : FourWords) (n m : Nat) (h : n + m = 32) :
    cryptRounds rk.reverse (reverseWords (cryptRounds rk x 32 le_rfl)) n (by omega) =
      reverseWords (cryptRounds rk x m (by omega)) := by
  induction n generalizing m with
  | zero =>
    obtain rfl : m = 32 := by omega
    rfl
  | succ n ih =>
    have hpos : 3 - Fin.ofNat 4 n = Fin.ofNat 4 m := by
      rw [sub_eq_iff_eq_add, Fin.ext_iff, Fin.val_add, Fin.val_ofNat, Fin.val_ofNat]
      change 3 = _
      omega
    have hkey : rk.reverse[n] = rk[m] := by
      rw [Vector.getElem_reverse]
      congr 1
      omega
    rw [cryptRounds_succ, ih (m + 1) (by omega), round_reverseWords, cryptRounds_succ, hpos, hkey, round_round]

theorem wordsOf_crypt (block : Block) (rk : Vector Word 32) :
    wordsOf (crypt block rk) = reverseWords (cryptRounds rk (wordsOf block) 32 le_rfl) :=
  wordsOf_packWords _

theorem crypt_crypt_reverse (block : Block) (rk : Vector Word 32) : crypt (crypt block rk) rk.reverse = block := by
  rw [crypt, wordsOf_crypt, cryptRounds_reverse rk (wordsOf block) 32 0 rfl, cryptRounds_zero,
    reverseWords_reverseWords, packWords_wordsOf]

/-! ## The two Round Key Sets (R23) -/

theorem State.Inv.ready_of_valid {s : State} (hs : s.Inv) (hv : s.ctx.stat.valid = true) : s.ctx.Ready := by
  obtain ⟨hn, -⟩ | hready := hs
  · exact absurd hv (by simp [hn])
  · exact hready

theorem Context.Ready.drk_eq_reverse {c : Context} (hc : c.Ready) : c.drk = c.erk.reverse := by
  obtain ⟨-, -, -, hmirror⟩ := hc
  ext i hi : 1
  rw [hmirror i hi, Vector.getElem_reverse]

theorem Context.Ready.keySet_eq_reverse {c : Context} (hc : c.Ready) {ks ks' : RoundKeySet} (hne : ks ≠ ks') :
    keySet ks' c = (keySet ks c).reverse := by
  cases ks <;> cases ks'
  case enc.enc | dec.dec => exact absurd rfl hne
  case enc.dec => exact hc.drk_eq_reverse
  case dec.enc => exact (Vector.reverse_eq_iff.mpr hc.drk_eq_reverse).symm

/-! ## The command (R172) -/

theorem exec_crypt_of_valid (ks : RoundKeySet) {s : State} (hv : s.ctx.stat.valid = true) :
    exec (.crypt ks) s = .next (s.answered (crypt s.port.din (keySet ks s.ctx)) .ok) :=
  requireReady_of_valid hv _

/-- Settles O53: in `Ready` each Round Key Set is the other one reversed, and the reversed keys take `crypt` back. -/
theorem decryptionUndoesEncryption : Obligations.DecryptionUndoesEncryption := by
  intro s hs hv ks ks' hne
  have hback : crypt (crypt s.port.din (keySet ks s.ctx)) (keySet ks' s.ctx) = s.port.din := by
    rw [(hs.ready_of_valid hv).keySet_eq_reverse hne, crypt_crypt_reverse]
  refine ⟨crypt s.port.din (keySet ks s.ctx), exec_crypt_of_valid ks hv, ?_⟩
  rw [exec_crypt_of_valid, hback]
  · rfl
  · exact hv

end Sys2Proof.Machine
end

section
/-! The proofs about the control of the context (45_context_control.md): the commands `RDRK`, `RDST` and `CLR`, who can see `BACKEND`, and the life cycle of the context. -/

namespace Sys2Proof.Machine

/-! ## `RDRK` (R182) -/

/-- `z` is zero in every command: a word with a bit set in `z` is illegal, whatever its `op` (R62, R67). -/
theorem illegalCommandWord_of_zField_ne_zero {w : CommandWord} (hz : zField w ≠ 0) : IllegalCommandWord w := by
  cases hd : decode w with
  | error e => exact ⟨e, hd⟩
  | ok i =>
    obtain ⟨-, -, -, hzero, -⟩ := hasFields_of_decode hd
    exact absurd hzero hz

theorem exec_rdrk_of_valid (ks : RoundKeySet) (idx : Index) {s : State} (hv : s.ctx.stat.valid = true) :
    exec (.rdrk ks idx) s = .next (s.answered (zextWord (wordAt (keySet ks s.ctx) idx)) .ok) :=
  requireReady_of_valid hv _

theorem Context.Uninitialized.drk_eq_reverse {c : Context} (hc : c.Uninitialized) : c.drk = c.erk.reverse := by
  obtain ⟨-, -, hzero⟩ := hc
  ext i hi : 1
  obtain ⟨-, hdrk⟩ := hzero i hi
  obtain ⟨herk, -⟩ := hzero (32 - 1 - i) (by omega)
  rw [Vector.getElem_reverse, hdrk, herk]

/-- The sets mirror each other in both states of the context: in `Uninitialized` both are zero (R23). -/
theorem State.Inv.drk_eq_reverse {s : State} (hs : s.Inv) : s.ctx.drk = s.ctx.erk.reverse :=
  hs.elim Context.Uninitialized.drk_eq_reverse Context.Ready.drk_eq_reverse

theorem wordAt_reverse (keys : Vector Word 32) (idx : Index) : wordAt keys.reverse idx = wordAt keys (31 - idx) := by
  have hidx : (31 - idx).toNat = 32 - 1 - idx.toNat := by bv_omega
  simp only [wordAt, Vector.getElem_reverse, hidx]

/-- Settles O37: `m` and `idx` are the free bits of the words of `RDRK`, and by the invariant the register it reads has its mirror image in the other set. -/
theorem rdrkCommandReadsOneRoundKey : Obligations.RdrkCommandReadsOneRoundKey := by
  refine ⟨fun idx => ⟨decode_eq_ok_iff.mpr ⟨rfl, rfl⟩, decode_eq_ok_iff.mpr ⟨rfl, rfl⟩⟩,
    fun w _ => illegalCommandWord_of_zField_ne_zero,
    fun ks idx s => exec_readsRoundKeys_of_not_valid (i := .rdrk ks idx) trivial,
    fun idx s hv => ⟨exec_rdrk_of_valid .enc idx hv, exec_rdrk_of_valid .dec idx hv⟩, fun idx s hs => ?_⟩
  have hmirror : wordAt s.ctx.drk idx = wordAt s.ctx.erk (31 - idx) := by
    rw [hs.drk_eq_reverse, wordAt_reverse]
  exact congrArg (fun k => requireReady s (complete s (zextWord k))) hmirror

/-! ## `RDST` (R183) -/

/-- `CTXSTAT` as `RDST` puts it on `DOUT`. -/
theorem exec_rdst (s : State) : exec .rdst s = .next (s.answered ((ctxStatBits s.ctx.stat).setWidth 128) .ok) := rfl

section ctxStat
variable (c : CtxStat)

theorem zext_ctxStatBits_bit_zero : ((ctxStatBits c).setWidth 128).getLsbD 0 = c.valid := by
  rw [BitVec.getLsbD_setWidth, ctxStatBits, BitVec.getLsbD_append]
  simp

theorem zext_ctxStatBits_backend :
    ((ctxStatBits c).setWidth 128).extractLsb' 1 2 = backendNumber c.backend := by
  rw [BitVec.extractLsb'_setWidth_of_le (by decide), ctxStatBits]
  exact BitVec.extractLsb'_append_eq_left

theorem zext_ctxStatBits_high : ((ctxStatBits c).setWidth 128).extractLsb' 3 125 = 0 := by
  apply BitVec.eq_of_getLsbD_eq
  intro i hi
  simp
end ctxStat

/-- What `RDST` shows in a state of the invariant: `VALID` with the number of `SBOX_IMPL`, or zero (R26). -/
theorem State.Inv.ctxStatBits_eq {s : State} (hs : s.Inv) :
    ctxStatBits s.ctx.stat = if s.ctx.stat.valid then backendNumber Config.sboxImpl ++ 1#1 else 0 := by
  obtain ⟨hv, hbits, -⟩ | ⟨hv, hbackend, -⟩ := hs
  · rw [hbits, hv]
    rfl
  · rw [ctxStatBits, hbackend, hv]
    rfl

/-! ## Who can see `BACKEND` (R26) -/

/-- The state with another value in `BACKEND`. -/
def State.withBackend (s : State) (b : SboxImpl) : State :=
  { s with ctx := { s.ctx with stat := { s.ctx.stat with backend := b } } }

/-- Two outcomes that complete with the same answer. -/
def SameAnswer (o p : StepOutcome) : Prop :=
  ∃ t u, o = .next t ∧ p = .next u ∧ t.answer = u.answer

section sameAnswer
variable {s u : State}

theorem complete_sameAnswer (v : Block) : SameAnswer (complete s v) (complete u v) := ⟨_, _, rfl, rfl, rfl⟩

theorem raise_sameAnswer (st : Status) : SameAnswer (raise s st) (raise u st) := ⟨_, _, rfl, rfl, rfl⟩

variable (hv : s.ctx.stat.valid = u.ctx.stat.valid)
include hv

theorem requireReady_sameAnswer {o p : StepOutcome} (hb : SameAnswer o p) :
    SameAnswer (requireReady s o) (requireReady u p) := by
  unfold requireReady
  rw [← hv]
  split
  · exact hb
  · exact raise_sameAnswer _

theorem requireUninitialized_sameAnswer {o p : StepOutcome} (hb : SameAnswer o p) :
    SameAnswer (requireUninitialized s o) (requireUninitialized u p) := by
  unfold requireUninitialized
  rw [← hv]
  split
  · exact raise_sameAnswer _
  · exact hb
end sameAnswer

/-- The context checks look at `VALID` and the round keys are read from the two sets, so only `RDST` reads `BACKEND`. -/
theorem exec_withBackend_sameAnswer {i : Instr} (hi : i ≠ .rdst) (s : State) (b : SboxImpl) :
    SameAnswer (exec i s) (exec i (s.withBackend b)) := by
  have hvalid : s.ctx.stat.valid = (s.withBackend b).ctx.stat.valid := rfl
  cases i with
  | rnd keys idx => exact requireReady_sameAnswer hvalid (complete_sameAnswer _)
  | crypt keys => exact requireReady_sameAnswer hvalid (complete_sameAnswer _)
  | rdrk keys idx => exact requireReady_sameAnswer hvalid (complete_sameAnswer _)
  | kexp src => exact requireUninitialized_sameAnswer hvalid (complete_sameAnswer _)
  | rdst => exact absurd rfl hi
  | _ => exact complete_sameAnswer _

/-- Settles O38: `0x4100` is the one word of `RDST`, which answers with the fields of `CTXSTAT`, and no other command reads `BACKEND`. -/
theorem rdstCommandAloneShowsTheBackend : Obligations.RdstCommandAloneShowsTheBackend := by
  refine ⟨decode_encode_of_hasFormatF (i := .rdst) trivial,
    fun w => illegalCommandWord_of_ne_encode (i := .rdst) trivial,
    fun s => ⟨_, exec_rdst s, zext_ctxStatBits_bit_zero _, zext_ctxStatBits_backend _, zext_ctxStatBits_high _,
      fun hs => ?_⟩, fun i s b hi => exec_withBackend_sameAnswer hi s b⟩
  rw [hs.ctxStatBits_eq]
  split
  · cases Config.sboxImpl <;> rfl
  · rfl

/-! ## `CLR` (R184) -/

/-- Settles O39: `0x4200` is the one word of `CLR`, which leaves `VALID = 0`, and every other command keeps the context while `VALID = 1`. -/
theorem clrCommandDestroysTheContext : Obligations.ClrCommandDestroysTheContext := by
  refine ⟨decode_encode_of_hasFormatF (i := .clr) trivial,
    fun w => illegalCommandWord_of_ne_encode (i := .clr) trivial, exec_clr,
    fun i s t hi h => ?_, fun i s t hv h hn => ?_⟩
  · obtain rfl := Host.Outcome.next.inj ((exec_clr s).symm.trans h)
    exact exec_readsRoundKeys_of_not_valid hi clearedContext_valid
  · by_contra hne
    rw [exec_keeps_ctx_of_valid hv hne h, hv] at hn
    cases hn

/-! ## The life cycle (R180) -/

/-- In `Uninitialized` `RDST` shows zero (R183). -/
theorem exec_rdst_of_uninitialized {s : State} (hs : s.ctx.Uninitialized) :
    exec .rdst s = .next (s.answered 0 .ok) := by
  obtain ⟨-, hbits, -⟩ := hs
  rw [exec_rdst, hbits]
  rfl

/-- In `Uninitialized` `KEXP` makes a context in `Ready` (R139). -/
theorem exec_kexp_of_uninitialized (src : KeySource) {s : State} (hs : s.ctx.Uninitialized) :
    ∃ c, exec (.kexp src) s = .next { s with ctx := c, answer := some { dout := 0, status := .ok } } ∧ c.Ready := by
  obtain ⟨hv, -⟩ := hs
  refine ⟨_, ?_, readyContext_ready (keyOperand src s.port.din)⟩
  rw [exec_kexp_of_not_valid src hv, withContext_answered]

/-- Settles O44: the rows of R180's table, each by what its command does with that value of `VALID`. -/
theorem contextLifeCycle : Obligations.ContextLifeCycle := by
  refine ⟨?contextFree, ?kexpUninitialized, ?kexpReady, ?readUninitialized, ?readReady, ?rdstUninitialized,
    ?rdstReady, ?clr, ?illegal, ?reset⟩
  case contextFree => exact fun i s hi => exec_of_no_check (.inl hi) s
  case kexpUninitialized => exact fun src s => exec_kexp_of_uninitialized src
  case kexpReady => exact fun src s ⟨hv, _⟩ => exec_kexp_of_valid src hv
  case readUninitialized => exact fun i s hi ⟨hv, _⟩ => exec_readsRoundKeys_of_not_valid hi hv
  case readReady => exact fun i s hi ⟨hv, _⟩ => exec_readsRoundKeys_of_valid hi hv
  case rdstUninitialized => exact fun s => exec_rdst_of_uninitialized
  case rdstReady => exact fun s _ => ⟨_, exec_rdst s⟩
  case clr => exact fun s => ⟨_, exec_clr s, clearedContext_uninitialized⟩
  case illegal => exact fun s r rest hp ⟨e, he⟩ => step_of_illegal hp he
  case reset => exact fun s rest hp => ⟨_, step_of_reset hp, clearedContext_uninitialized⟩

end Sys2Proof.Machine
end

section
/-! The proofs about exceptions (60_exceptions.md): the status of a transaction is a function of `VALID` and of the command word, and what ends with another status than `OK` answers zero and writes nothing. -/

namespace Sys2Proof.Machine

/-! ## The status of a command (R202, R203, R206) -/

/-- The `STATUS` that a command ends with, from `VALID` (R200). -/
def commandStatus (valid : Bool) (i : Instr) : Status :=
  match i with
  | .rnd _ _ | .crypt _ | .rdrk _ _ => if valid then .ok else .contextInvalid
  | .kexp _ => if valid then .contextLocked else .ok
  | .sbox | .sbox32 | .lenc | .lkey | .tenc | .tkey | .kinit _ | .krnd _ | .rndx _ | .rev | .rdst | .clr => .ok

section commandStatus
variable {valid : Bool} {i : Instr}

theorem commandStatus_ne_illegalCommand : commandStatus valid i ≠ .illegalCommand := by
  cases i <;> cases valid <;> simp [commandStatus]

theorem commandStatus_eq_contextInvalid_iff :
    commandStatus valid i = .contextInvalid ↔ valid = false ∧ ReadsRoundKeys i := by
  cases i <;> cases valid <;> simp [commandStatus, ReadsRoundKeys]

theorem commandStatus_eq_contextLocked_iff :
    commandStatus valid i = .contextLocked ↔ valid = true ∧ ∃ src, i = .kexp src := by
  cases i <;> cases valid <;> simp [commandStatus]

theorem commandStatus_eq_ok_iff :
    commandStatus valid i = .ok ↔
      (ContextFree i ∨ i = .rdst ∨ i = .clr) ∨ (valid = false ∧ ∃ src, i = .kexp src) ∨
        (valid = true ∧ ReadsRoundKeys i) := by
  cases i <;> cases valid <;> simp [commandStatus, ContextFree, ReadsRoundKeys]
end commandStatus

/-- A command whose status is `OK` completes: it answers, and may write the context. -/
theorem exec_of_commandStatus_ok {i : Instr} {s : State} (h : commandStatus s.ctx.stat.valid i = .ok) :
    ∃ v c, exec i s = .next ((s.withContext c).answered v .ok) := by
  have unwritten : (∃ v, exec i s = .next (s.answered v .ok)) →
      ∃ v c, exec i s = .next ((s.withContext c).answered v .ok) := fun ⟨v, hx⟩ => ⟨v, s.ctx, hx⟩
  obtain (hi | rfl | rfl) | ⟨hv, src, rfl⟩ | ⟨hv, hi⟩ := commandStatus_eq_ok_iff.mp h
  · exact unwritten (exec_of_no_check (.inl hi) s)
  · exact unwritten (exec_of_no_check (.inr rfl) s)
  · exact ⟨_, _, exec_clr s⟩
  · exact ⟨_, _, exec_kexp_of_not_valid src hv⟩
  · exact unwritten (exec_readsRoundKeys_of_valid hi hv)

/-- A command whose status is not `OK` ends by `raise` (R204). -/
theorem exec_of_commandStatus_ne_ok {i : Instr} {s : State} (h : commandStatus s.ctx.stat.valid i ≠ .ok) :
    exec i s = .next (s.answered 0 (commandStatus s.ctx.stat.valid i)) := by
  cases hst : commandStatus s.ctx.stat.valid i with
  | ok => exact absurd hst h
  | illegalCommand => exact absurd hst commandStatus_ne_illegalCommand
  | contextInvalid =>
    obtain ⟨hv, hi⟩ := commandStatus_eq_contextInvalid_iff.mp hst
    exact exec_readsRoundKeys_of_not_valid hi hv
  | contextLocked =>
    obtain ⟨hv, src, rfl⟩ := commandStatus_eq_contextLocked_iff.mp hst
    exact exec_kexp_of_valid src hv

/-! ## The status of a transaction (R200) -/

/-- The `STATUS` that a transaction ends with, from `VALID` and its word: the word is decoded before anything else (R201, R209). -/
def transactionStatus (valid : Bool) (w : CommandWord) : Status :=
  match decode w with
  | .error _ => .illegalCommand
  | .ok i => commandStatus valid i

section transactionStatus
variable {valid : Bool} {w : CommandWord}

theorem transactionStatus_of_legal {i : Instr} (hd : decode w = .ok i) :
    transactionStatus valid w = commandStatus valid i := by simp only [transactionStatus, hd]

theorem transactionStatus_of_illegal {e : IllegalWord} (hd : decode w = .error e) :
    transactionStatus valid w = .illegalCommand := by simp only [transactionStatus, hd]

theorem transactionStatus_eq_illegalCommand_iff :
    transactionStatus valid w = .illegalCommand ↔ IllegalCommandWord w := by
  cases hd : decode w with
  | error e => simp [transactionStatus_of_illegal hd, IllegalCommandWord, hd]
  | ok i => simp [transactionStatus_of_legal hd, IllegalCommandWord, hd, commandStatus_ne_illegalCommand]

theorem transactionStatus_eq_contextInvalid_iff :
    transactionStatus valid w = .contextInvalid ↔ valid = false ∧ ∃ i, decode w = .ok i ∧ ReadsRoundKeys i := by
  cases hd : decode w with
  | error e => simp [transactionStatus_of_illegal hd]
  | ok i => simp [transactionStatus_of_legal hd, commandStatus_eq_contextInvalid_iff]

theorem transactionStatus_eq_contextLocked_iff :
    transactionStatus valid w = .contextLocked ↔ valid = true ∧ ∃ src, decode w = .ok (.kexp src) := by
  cases hd : decode w with
  | error e => simp [transactionStatus_of_illegal hd]
  | ok i => simp [transactionStatus_of_legal hd, commandStatus_eq_contextLocked_iff]
end transactionStatus

section transaction
variable {s : State} {r : Request} {rest : List HostEvent}

/-- A transaction answers the status of its word; only one that ends with `OK` can set `DOUT` or write the context. -/
theorem step_of_transaction (hp : s.pending = .transaction r :: rest) :
    ∃ v c, step s = .next (((s.present r rest).withContext c).answered v (transactionStatus s.ctx.stat.valid r.cmd)) ∧
      (transactionStatus s.ctx.stat.valid r.cmd ≠ .ok → v = 0 ∧ c = s.ctx) := by
  cases hd : decode r.cmd with
  | error e =>
    rw [transactionStatus_of_illegal hd]
    exact ⟨0, s.ctx, step_of_illegal hp hd, fun _ => ⟨rfl, rfl⟩⟩
  | ok i =>
    rw [transactionStatus_of_legal hd, step_of_legal hp hd]
    by_cases hst : commandStatus s.ctx.stat.valid i = .ok
    · obtain ⟨v, c, hx⟩ := exec_of_commandStatus_ok (s := s.present r rest) hst
      exact ⟨v, c, hst ▸ hx, fun hne => absurd hst hne⟩
    · exact ⟨0, s.ctx, exec_of_commandStatus_ne_ok (s := s.present r rest) hst, fun _ => ⟨rfl, rfl⟩⟩

/-- The status of a transaction is `transactionStatus` of `VALID` and the word. -/
theorem step_answers_transactionStatus (hp : s.pending = .transaction r :: rest) :
    ∃ t v, step s = .next t ∧
      t.answer = some { dout := v, status := transactionStatus s.ctx.stat.valid r.cmd } := by
  obtain ⟨v, c, hx, -⟩ := step_of_transaction hp
  exact ⟨_, v, hx, answered_answer ..⟩
end transaction

/-! ## The statements -/

theorem illegalCommandWord_of_no_row {w : CommandWord} (h : ∀ row ∈ opcodeTable, row.selects w = false) :
    IllegalCommandWord w := by
  cases hd : decode w with
  | error e => exact ⟨e, hd⟩
  | ok i =>
    obtain ⟨row, hrow, hsel, -⟩ := exists_row_of_decode hd
    exact absurd hsel (by simp [h row hrow])

/-- Settles O5: every legal word selects a row, so a word that selects none is illegal, and `step` raises `IllegalCommand`. -/
theorem wordOutsideTheMapAnswersIllegalCommand : Obligations.WordOutsideTheMapAnswersIllegalCommand := by
  refine ⟨rfl, fun s r rest hp h => ?_⟩
  obtain ⟨e, he⟩ := illegalCommandWord_of_no_row h
  exact step_of_illegal hp he

theorem statusCode_toNat_lt_four (st : Status) : (statusCode st).toNat < 4 := by
  cases st <;> decide

/-- Settles O41: the status answered is `transactionStatus`, which takes each failing value exactly for its cause. -/
theorem statusCodeOfEveryTransaction : Obligations.StatusCodeOfEveryTransaction := by
  refine ⟨rfl, rfl, rfl, rfl, fun s r rest hp => ?_⟩
  obtain ⟨t, v, hx, ha⟩ := step_answers_transactionStatus hp
  exact ⟨t, _, hx, ha, statusCode_toNat_lt_four _, transactionStatus_eq_illegalCommand_iff,
    transactionStatus_eq_contextInvalid_iff, transactionStatus_eq_contextLocked_iff⟩

/-- Settles O42: the step is determined, and where it does not answer `OK` it has `DOUT = 0` and the old context. -/
theorem failedTransactionWritesNothing : Obligations.FailedTransactionWritesNothing := by
  intro s t r rest a hp h ha hne
  obtain ⟨v, c, hx, hfail⟩ := step_of_transaction hp
  obtain rfl := Host.Outcome.next.inj (hx.symm.trans h)
  obtain rfl := Option.some.inj ((answered_answer ..).symm.trans ha)
  exact hfail hne

/-- Settles O43: `commandStatus` is `OK` for the twelve commands, and `transactionStatus` has no data operand. -/
theorem commandsWithoutAContextCheckNeverFail : Obligations.CommandsWithoutAContextCheckNeverFail := by
  refine ⟨fun s r rest i hp hd hi => ?_, fun s r rest din rkin hp => ?_⟩
  · have hst : transactionStatus s.ctx.stat.valid r.cmd = .ok :=
      (transactionStatus_of_legal hd).trans (commandStatus_eq_ok_iff.mpr (.inl hi))
    exact hst ▸ step_answers_transactionStatus hp
  · obtain ⟨t, v, ht, ha⟩ := step_answers_transactionStatus hp
    obtain ⟨u, v', hu, hb⟩ := step_answers_transactionStatus
      (s := { s with pending := .transaction { r with din := din, rkin := rkin } :: rest }) rfl
    exact ⟨t, u, _, _, ht, ha, hu, hb, rfl⟩

end Sys2Proof.Machine
end

section
/-! The proofs about reset and hazards (70_reset_and_hazards.md): what the event `RESET` does to the context. -/

namespace Sys2Proof.Machine

/-- Settles O2: `RESET` and `CLR` write the same context, `clearedContext`, and that one is zero. -/
theorem resetEventZeroesTheContext : Obligations.ResetEventZeroesTheContext := by
  intro s rest hp
  obtain ⟨-, hbits, hkeys⟩ := clearedContext_uninitialized
  rw [← resetAsserted_ctx s rest] at hbits hkeys
  have hclr : ((s.withContext clearedContext).answered 0 .ok).ctx = (s.resetAsserted rest).ctx := by simp
  exact ⟨_, step_of_reset hp, resetAsserted_pending s rest, hkeys, hbits, _, exec_clr s, hclr⟩

end Sys2Proof.Machine
end

section
/-! The encoding and the host's entry (30_encoding.md sections 1 to 6): decoder and encoder invert each other, and a step runs the command that the host presents. -/

namespace Sys2Proof

/-- Settles O7: the legal words are the encodings of the well-formed commands, read from the command to the word. -/
theorem decodeInvertsEncode : Obligations.DecodeInvertsEncode :=
  fun _ hi => decode_eq_ok_iff.mpr ⟨hi, rfl⟩

/-- Settles O8: the legal words are the encodings of the well-formed commands, read from the word to the command. -/
theorem encodeInvertsDecode : Obligations.EncodeInvertsDecode :=
  fun _ _ => decode_eq_ok_iff.mp

/-- Settles O10: the decoder is run on each of the words. -/
theorem sampleWordsDecode : Obligations.SampleWordsDecode := by
  unfold Obligations.SampleWordsDecode
  decide

theorem decodeTableWord_eq_some {nbits w : Nat} {i : Instr} (h : decodeTableWord nbits w = some i) :
    decode (BitVec.ofNat 16 w) = .ok i := by
  unfold decodeTableWord at h
  split at h
  · split at h
    next hd => rw [hd, Option.some.inj h]
    next => cases h
  · cases h

end Sys2Proof

namespace Sys2Proof.Machine

/-- Settles O3: the step on a legal word, with the ports as `State.present` puts them. -/
theorem stepRunsTheDecodedCommand : Obligations.StepRunsTheDecodedCommand :=
  fun _ _ _ _ hp hd => step_of_legal hp hd

theorem step_of_no_event {s : State} (hp : s.pending = []) : step s = .next s.idle := by
  simp only [step, hp]

/-- Settles O4: with nothing pending the step is `State.idle`. -/
theorem idleStepHoldsTheContext : Obligations.IdleStepHoldsTheContext :=
  fun _ hp => step_of_no_event hp

/-- Settles O6: `withFetchWord` puts the word at the head of the list, from where the step runs it. -/
theorem fetchWordIsRunByTheNextStep : Obligations.FetchWordIsRunByTheNextStep :=
  fun s nbits w _ h => step_of_legal (s := s.withFetchWord nbits w) rfl (decodeTableWord_eq_some h)

end Sys2Proof.Machine
end

section
/-! The operand forms (00_scope.md section 6, 20_memory.md section 3): rotations bit by bit, and the big-endian lanes of a port. -/

namespace Sys2Proof.Machine

/-- A left rotation by `n` moves bit `i` to bit `i + n`, counted modulo the width (R14). -/
theorem getLsbD_rotateLeft_add_mod {w : Nat} (v : BitVec w) {n i : Nat} (hn : n < w) (hi : i < w) :
    (v.rotateLeft n).getLsbD ((i + n) % w) = v.getLsbD i := by
  rw [BitVec.getLsbD_rotateLeft, Nat.mod_eq_of_lt hn]
  by_cases hwrap : i + n < w
  · rw [Nat.mod_eq_of_lt hwrap]
    simp [hwrap]
  · have hmod : (i + n) % w = i + n - w := by
      rw [Nat.mod_eq_sub_mod (by omega), Nat.mod_eq_of_lt (by omega)]
    rw [hmod]
    simp [show i + n - w < n by omega, show w - n + (i + n - w) = i by omega]

/-- Settles O11: both rotations are `rotateLeft`, of which the law holds on every width. -/
theorem rotationMovesEachBit : Obligations.RotationMovesEachBit := by
  refine ⟨fun v n i _ hn hi => ?_, fun b n i _ hn hi => ?_⟩
  · rw [rol32_eq_rotateLeft v hn, getLsbD_rotateLeft_add_mod v hn hi]
  · rw [rol8_eq_rotateLeft b hn, getLsbD_rotateLeft_add_mod b hn hi]

/-- A word of a port is its four bytes, the first one most significant (R15). -/
theorem wordOf_eq_byteOf_append (d : Block) (j : Fin 4) :
    wordOf d j =
      byteOf d ⟨4 * j.val, by omega⟩ ++ byteOf d ⟨4 * j.val + 1, by omega⟩ ++
        byteOf d ⟨4 * j.val + 2, by omega⟩ ++ byteOf d ⟨4 * j.val + 3, by omega⟩ := by
  have hlow : 120 - 8 * (4 * j.val + 3) = 96 - 32 * j.val := by omega
  simp only [byteOf, hlow]
  rw [BitVec.extractLsb'_append_extractLsb'_eq_extractLsb' (by omega),
    BitVec.extractLsb'_append_extractLsb'_eq_extractLsb' (by omega),
    BitVec.extractLsb'_append_extractLsb'_eq_extractLsb' (by omega)]
  rfl

theorem getLsbD_byteOf (d : Block) (i : Fin 16) {b : Nat} (hb : b < 8) :
    (byteOf d i).getLsbD b = d.getLsbD (120 - 8 * i.val + b) := by
  simp [byteOf, hb]

/-- Settles O12: adjacent slices of the port, put side by side again. -/
theorem portLanesAreBigEndian : Obligations.PortLanesAreBigEndian :=
  ⟨wordOf_eq_byteOf_append, packWords_wordsOf, fun d i _ => getLsbD_byteOf d i⟩

end Sys2Proof.Machine
end

section
/-! The isomorphic forms of the S-Box (40_sbox.md sections 1 and 2). -/

namespace Sys2Proof.Machine

/-- `gfInv` by the arithmetic on numerals that the kernel computes fast. -/
theorem gfInv_eq_ofNat (poly v : Byte) : gfInv poly v = BitVec.ofNat 8 (gfInvNat poly.toNat v.toNat) := by
  rw [← toNat_gfInv, BitVec.ofNat_toNat, BitVec.setWidth_eq]

/-- `gfInv` is the inverse in the AES field. -/
theorem gfMul_gfInv_polyAes (v : Byte) (hv : v ≠ 0) : gfMul polyAes v (gfInv polyAes v) = 1 := by
  have inverse : ∀ v : Byte, v ≠ 0 →
      gfMulNat polyAes.toNat v.toNat 8 (gfInvNat polyAes.toNat v.toNat) = 1 := by decide +kernel
  apply BitVec.eq_of_toNat_eq
  rw [toNat_gfMul, toNat_gfInv, inverse v hv]
  rfl

theorem gfInv_polyAes_zero : gfInv polyAes 0 = 0 := by
  rw [gfInv_eq_ofNat]
  decide

theorem sboxBy_isoInv (b : Byte) : sboxBy .isoInv b = sbox b := by
  have table : ∀ b : Byte,
      affOutInv (BitVec.ofNat 8 (gfInvNat polyAes.toNat (affIn b).toNat)) = sbox b := by decide +kernel
  rw [sboxBy, gfInv_eq_ofNat, table]

/-- `AffOut` of `ISO_AES` takes the affine part of the AES byte substitution back before it does what `AffOut` of `ISO_INV` does. -/
theorem affOutAes_linearAes : ∀ z : Byte, affOutAes (linearAes z ^^^ 0x63) = affOutInv z := by decide +kernel

theorem sboxBy_isoAes (b : Byte) : sboxBy .isoAes b = sboxBy .isoInv b :=
  affOutAes_linearAes (gfInv polyAes (affIn b))

/-- Settles O15: the inversion form against the table on every byte, and the AES form against the inversion form. -/
theorem everyStrategyEqualsTheTable : Obligations.EveryStrategyEqualsTheTable := by
  refine ⟨gfMul_gfInv_polyAes, gfInv_polyAes_zero, fun impl b => ?_⟩
  cases impl with
  | table => rfl
  | isoAes => rw [sboxBy_isoAes, sboxBy_isoInv]
  | isoInv => exact sboxBy_isoInv b

end Sys2Proof.Machine
end

section
/-! The context over a step (10_state.md sections 2, 3 and 8): the invariant at reset, and the events that change `VALID`. -/

namespace Sys2Proof.Machine

/-- Settles O46: reset leaves what `CLR` leaves, which is `Uninitialized`. -/
theorem resetStateKeepsTheInvariant : Obligations.ResetStateKeepsTheInvariant :=
  .inl (clearedContext_eq_reset ▸ clearedContext_uninitialized)

section valid
variable {s t : State} (h : step s = .next t)
include h

/-- From `VALID = 0`, `VALID` is set by `KEXP` and by nothing else (R25). -/
theorem step_sets_valid_iff (hv : s.ctx.stat.valid = false) :
    t.ctx.stat.valid = true ↔
      ∃ r rest src, s.pending = .transaction r :: rest ∧ decode r.cmd = .ok (.kexp src) := by
  constructor
  · intro ht
    obtain hc | ⟨r, rest, src, hp, hd, -, -⟩ | ⟨-, hc⟩ := step_ctx_cases h
    · exact absurd ht (by simp [hc, hv])
    · exact ⟨r, rest, src, hp, hd⟩
    · exact absurd ht (by simp [hc])
  · rintro ⟨r, rest, src, hp, hd⟩
    rw [step_of_legal hp hd, exec_kexp_of_not_valid src (s := s.present r rest) hv] at h
    obtain rfl := Host.Outcome.next.inj h
    rfl

/-- From `VALID = 1`, `VALID` is cleared by reset and `CLR` and by nothing else (R25). -/
theorem step_clears_valid_iff (hv : s.ctx.stat.valid = true) :
    t.ctx.stat.valid = false ↔
      (∃ rest, s.pending = .reset :: rest) ∨
        ∃ r rest, s.pending = .transaction r :: rest ∧ decode r.cmd = .ok .clr := by
  constructor
  · intro ht
    obtain hc | ⟨r, rest, src, -, -, hn, -⟩ | ⟨hevent, -⟩ := step_ctx_cases h
    · exact absurd ht (by simp [hc, hv])
    · exact absurd hv (by simp [hn])
    · exact hevent
  · rintro (⟨rest, hp⟩ | ⟨r, rest, hp, hd⟩)
    · obtain rfl := Host.Outcome.next.inj ((step_of_reset hp).symm.trans h)
      rfl
    · rw [step_of_legal hp hd, exec_clr] at h
      obtain rfl := Host.Outcome.next.inj h
      rfl
end valid

/-- Settles O45: the one event that sets `VALID` and the two that clear it. -/
theorem validChangesOnlyByKexpClrAndReset : Obligations.ValidChangesOnlyByKexpClrAndReset :=
  fun _ _ h => ⟨step_sets_valid_iff h, step_clears_valid_iff h⟩

end Sys2Proof.Machine
end

section
/-! Transactions one after another (20_memory.md sections 5 and 6, 60_exceptions.md section 4): repeating a command, commuting two, and forgetting a failed one. -/

namespace Sys2Proof.Machine

/-- A read-only command answers, and does nothing else (R49). -/
theorem exec_readOnly {i : Instr} (hi : ReadOnly i) (s : State) :
    ∃ v st, exec i s = .next (s.answered v st) := by
  obtain hx | ⟨src, rfl, -, -⟩ | ⟨rfl, -⟩ := exec_cases i s
  · exact hx
  · exact hi.elim
  · exact hi.elim

/-- A read-only command answers the same on the same context and ports (R30). -/
theorem exec_readOnly_same_answer {i : Instr} (hi : ReadOnly i) {s u : State} (hc : s.ctx = u.ctx)
    (hp : s.port = u.port) {v : Block} {st : Status} (h : exec i s = .next (s.answered v st)) :
    exec i u = .next (u.answered v st) := by
  obtain ⟨v', st', hu⟩ := exec_readOnly hi u
  obtain ⟨t, t', ht, ht', -, ha⟩ := exec_sameEffect hc hp i
  obtain rfl := Host.Outcome.next.inj (h.symm.trans ht)
  obtain rfl := Host.Outcome.next.inj (hu.symm.trans ht')
  obtain ⟨rfl, rfl⟩ : v = v' ∧ st = st' := by simpa using ha
  exact hu

/-- After a `KEXP` `VALID` is 1: `KEXP` set it, or was locked out because it was 1 before (R139). -/
theorem valid_of_exec_kexp {src : KeySource} {s t : State} (h : exec (.kexp src) s = .next t) :
    t.ctx.stat.valid = true := by
  cases hv : s.ctx.stat.valid with
  | false =>
    obtain rfl := Host.Outcome.next.inj ((exec_kexp_of_not_valid src hv).symm.trans h)
    rfl
  | true =>
    obtain rfl := Host.Outcome.next.inj ((exec_kexp_of_valid src hv).symm.trans h)
    exact hv

/-- Settles O49: a read-only command meets the same context and ports again, `CLR` clears a clear context, and after a `KEXP` the next one is locked out. -/
theorem repeatingACommand : Obligations.RepeatingACommand := by
  refine ⟨fun i s t hi h => ?readOnly, fun s t h => ?clr, fun src src' s t h => ?kexp⟩
  case readOnly =>
    obtain ⟨v, st, hx⟩ := exec_readOnly hi s
    obtain rfl := Host.Outcome.next.inj (hx.symm.trans h)
    exact ⟨rfl, exec_readOnly_same_answer hi (u := s.answered v st) rfl rfl hx⟩
  case clr =>
    obtain rfl := Host.Outcome.next.inj ((exec_clr s).symm.trans h)
    rfl
  case kexp => exact exec_kexp_of_valid src' (valid_of_exec_kexp h)

/-- Settles O51: a failed transaction leaves the context and the list behind it, and a step depends on no more (R30). -/
theorem failedTransactionIsForgotten : Obligations.FailedTransactionIsForgotten := by
  intro s t r e rest a hp h ha hne
  obtain ⟨-, hctx⟩ := failedTransactionWritesNothing s t r (e :: rest) a hp h ha hne
  obtain ⟨t', -, h', -, hrest, -⟩ := everyTransactionIsAnswered s r (e :: rest) hp
  obtain rfl := Host.Outcome.next.inj (h.symm.trans h')
  exact noStateIsHidden t { s with pending := e :: rest } e rest rest hctx hrest rfl

/-- A read-only transaction has one answer in all states with the same context, and leaves the context. -/
theorem step_readOnly {p : Request} {i : Instr} (hd : decode p.cmd = .ok i) (hi : ReadOnly i) (s : State) :
    ∃ v st, ∀ (u : State) (rest : List HostEvent), u.ctx = s.ctx → u.pending = .transaction p :: rest →
      step u = .next ((u.present p rest).answered v st) := by
  obtain ⟨v, st, hx⟩ := exec_readOnly hi (s.present p [])
  refine ⟨v, st, fun u rest hc hpend => ?_⟩
  rw [step_of_legal hpend hd]
  exact exec_readOnly_same_answer hi (s := s.present p []) (u := u.present p rest) hc.symm rfl hx

/-- Settles O52: both transactions leave the context, so each has its one answer first or second. -/
theorem readOnlyTransactionsInEitherOrder : Obligations.ReadOnlyTransactionsInEitherOrder := by
  intro s p q rest i j hi hj hri hrj
  obtain ⟨v, st, hp⟩ := step_readOnly hi hri s
  obtain ⟨v', st', hq⟩ := step_readOnly hj hrj s
  exact ⟨_, _, _, _, hp _ _ rfl rfl, hq _ _ rfl rfl, hq _ _ rfl rfl, hp _ _ rfl rfl, rfl, rfl, rfl, rfl⟩

end Sys2Proof.Machine
end

section
/-! The key schedule read backwards (45_context_control.md section 1), and the command `KRND` (42_key_schedule.md section 3). -/

namespace Sys2Proof.Machine

/-! ## Four round keys determine the key (R181) -/

theorem wordOf_eq_keyStart_xor_fk (key : Block) (j : Fin 4) :
    wordOf key j = wordAtPosition (keyStart key) j ^^^ wordAtPosition fk j := by
  have hcancel (a b : Word) : a = a ^^^ b ^^^ b := by rw [BitVec.xor_assoc, BitVec.xor_self, BitVec.xor_zero]
  fin_cases j <;> exact hcancel ..

theorem keyStart_injective : Function.Injective keyStart := fun key key' h =>
  eq_of_wordOf_eq fun j => by rw [wordOf_eq_keyStart_xor_fk key, h, ← wordOf_eq_keyStart_xor_fk key']

theorem keyRound_injective (c : Word) : Function.Injective (keyRound · c) := by
  intro k k' (h : keyRound k c = keyRound k' c)
  have h0 : k.x0 = k'.x0 := by rw [keyRound_back k c, h, ← keyRound_back k' c]
  obtain ⟨h1, h2, h3, -⟩ := (FourWords.mk.injEq ..).mp h
  exact (FourWords.mk.injEq ..).mpr ⟨h0, h1, h2, h3⟩

/-- A window computes back, round by round, to the key. -/
theorem keyWindow_injective (n : Nat) (h : n ≤ 32) : Function.Injective (keyWindow · n h) := by
  induction n with
  | zero => exact keyStart_injective
  | succ n ih => exact (keyRound_injective ck[n]).comp (ih (Nat.le_of_succ_le h))

/-- After round `r + 3` the window holds the round keys `r` to `r + 3`. -/
theorem keyWindow_add_four (key : Block) (r : Nat) (h : r + 3 < 32) :
    keyWindow key (r + 4) h =
      ⟨(keyExpand key)[r], (keyExpand key)[r + 1], (keyExpand key)[r + 2], (keyExpand key)[r + 3]⟩ := by
  simp only [keyExpand_getElem]
  rfl

/-- Settles O22: four consecutive round keys are a window of the rolling state, and a window determines the key. -/
theorem fourRoundKeysDetermineTheKey : Obligations.FourRoundKeysDetermineTheKey := by
  intro key key' r h h0 h1 h2 h3
  apply keyWindow_injective (r + 4) h
  simp only [keyWindow_add_four, h0, h1, h2, h3]

/-! ## `KRND` (R138) -/

theorem mField_append_zField (w : CommandWord) : mField w ++ zField w = w.extractLsb' 5 3 :=
  BitVec.extractLsb'_append_extractLsb'_eq_extractLsb' rfl

/-- `KRND` uses `idx` only: a word with its `op` and a bit set in `m` or `z` is illegal (R67). -/
theorem illegalCommandWord_of_krnd {w : CommandWord} (hop : opField w = 0x21) (hmid : w.extractLsb' 5 3 ≠ 0) :
    IllegalCommandWord w := by
  cases hd : decode w with
  | error e => exact ⟨e, hd⟩
  | ok j =>
    rw [decode, hop] at hd
    obtain ⟨hz, hm, -⟩ := formatX_eq_ok.mp hd
    refine absurd ?_ hmid
    rw [← mField_append_zField, hm, hz]
    rfl

theorem exec_krnd (idx : Index) (s : State) :
    exec (.krnd idx) s = .next (s.answered (packWords (keyRound (wordsOf s.port.din) (wordAt ck idx))) .ok) := rfl

/-- Settles O31: `idx` is the free field of the words of `KRND`, and `KRND` answers with one key round on the window and does nothing else. -/
theorem krndCommandSlidesTheKeyWindow : Obligations.KrndCommandSlidesTheKeyWindow := by
  refine ⟨by decide, fun w => illegalCommandWord_of_krnd, fun idx s => ?_, by decide, by decide⟩
  exact ⟨_, exec_krnd idx s, wordOf_packWords _ 0, wordOf_packWords _ 1, wordOf_packWords _ 2, wordOf_packWords _ 3⟩

end Sys2Proof.Machine
end

section
/-! The commands `RND` (43_round_function.md section 2) and `CRYPT` (44_single_block_core.md section 2). -/

namespace Sys2Proof.Machine

theorem exec_rnd_of_valid (ks : RoundKeySet) (idx : Index) {s : State} (hv : s.ctx.stat.valid = true) :
    exec (.rnd ks idx) s =
      .next (s.answered
        (packWords (round (wordsOf s.port.din) (positionOf idx) (wordAt (keySet ks s.ctx) idx))) .ok) :=
  requireReady_of_valid hv _

/-- Settles O34: `m` and `idx` are the free fields of the words of `RND`, and `RND` answers with one round with the selected round key, or `ContextInvalid`. -/
theorem rndCommandUsesTheContextRoundKey : Obligations.RndCommandUsesTheContextRoundKey := by
  refine ⟨fun idx => ⟨decode_eq_ok_iff.mpr ⟨rfl, rfl⟩, decode_eq_ok_iff.mpr ⟨rfl, rfl⟩⟩,
    fun w _ => illegalCommandWord_of_zField_ne_zero,
    fun ks idx s => exec_readsRoundKeys_of_not_valid (i := .rnd ks idx) trivial,
    fun ks idx s hv => ⟨_, exec_rnd_of_valid ks idx hv, fun j => ?_⟩⟩
  rw [wordOf_packWords_round]
  simp only [Fin.ext_iff, positionOf_val]
  cases ks <;> rfl

/-- Settles O36: `m` is the free bit of the words of `CRYPT`, and `CRYPT` answers with `crypt` under the selected Round Key Set, or `ContextInvalid`. -/
theorem cryptCommandTransformsOneBlock : Obligations.CryptCommandTransformsOneBlock :=
  ⟨decode_eq_ok_iff.mpr ⟨rfl, rfl⟩, decode_eq_ok_iff.mpr ⟨rfl, rfl⟩,
    fun _ => illegalCommandWord_of_formatM (i := .crypt .enc) trivial,
    fun ks _ => exec_readsRoundKeys_of_not_valid (i := .crypt ks) trivial,
    fun _ hv => ⟨exec_crypt_of_valid .enc hv, exec_crypt_of_valid .dec hv⟩⟩

end Sys2Proof.Machine
end

section
/-! Commands chained through `DOUT` and `DIN`: the rounds of `RND` with `REV` are `CRYPT` (44_single_block_core.md section 2), and those of `KRND` after `KINIT` show the round keys of `KEXP` (42_key_schedule.md section 3). -/

namespace Sys2Proof.Machine

/-! ## Feeding an answer back -/

section feedBack
variable (s : State) (v : Block) (st : Status)

@[simp] theorem feedBack_answered_ctx : (s.answered v st).feedBack.ctx = s.ctx := rfl
@[simp] theorem feedBack_answered_din : (s.answered v st).feedBack.port.din = v := rfl
@[simp] theorem feedBack_answered_answer :
    (s.answered v st).feedBack.answer = some { dout := v, status := st } := rfl
end feedBack

theorem runFeedingBack_cons {i : Instr} {s t : State} (is : List Instr) (h : exec i s = .next t) :
    runFeedingBack (i :: is) s = runFeedingBack is t.feedBack := by
  rw [runFeedingBack, h]

/-- A chain goes on from the state that its first part leaves. -/
theorem runFeedingBack_append {is : List Instr} {s t : State} (js : List Instr)
    (h : runFeedingBack is s = .next t) : runFeedingBack (is ++ js) s = runFeedingBack js t := by
  induction is generalizing s with
  | nil => rw [List.nil_append, Host.Outcome.next.inj h]
  | cons i is ih =>
    obtain ⟨u, -, hx, -⟩ := exec_answers i s
    rw [runFeedingBack_cons is hx] at h
    rw [List.cons_append, runFeedingBack_cons _ hx, ih h]

/-- One more command at the end of a chain. -/
theorem runFeedingBack_concat {is : List Instr} {i : Instr} {s t u : State}
    (h : runFeedingBack is s = .next t) (hx : exec i t = .next u) :
    runFeedingBack (is ++ [i]) s = .next u.feedBack := by
  rw [runFeedingBack_append [i] h, runFeedingBack_cons [] hx, runFeedingBack]

/-! ## The index of a round -/

theorem positionOf_ofNat (n : Nat) : positionOf (BitVec.ofNat 5 n) = Fin.ofNat 4 n := by
  rw [Fin.ext_iff, positionOf_val, BitVec.toNat_ofNat, Fin.val_ofNat]
  exact Nat.mod_mod_of_dvd n (by decide)

theorem wordAt_ofNat (keys : Vector Word 32) {n : Nat} (h : n < 32) : wordAt keys (BitVec.ofNat 5 n) = keys[n] := by
  have hidx : (BitVec.ofNat 5 n).toNat = n := Nat.mod_eq_of_lt h
  simp only [wordAt, hidx]

/-! ## `RND` and `REV` (R172) -/

/-- `RND 0` to `RND (n - 1)`. -/
def roundCommands (ks : RoundKeySet) (n : Nat) : List Instr :=
  (List.range n).map fun r => .rnd ks (BitVec.ofNat 5 r)

theorem roundCommands_succ (ks : RoundKeySet) (n : Nat) :
    roundCommands ks (n + 1) = roundCommands ks n ++ [.rnd ks (BitVec.ofNat 5 n)] := by
  simp [roundCommands, List.range_succ]

theorem roundsThenReverse_eq (ks : RoundKeySet) : roundsThenReverse ks = roundCommands ks 32 ++ [.rev] := rfl

/-- The chain of `n` rounds carries the words after `n` rounds of `crypt` on `DIN`. -/
theorem runFeedingBack_roundCommands (ks : RoundKeySet) {s : State} (hv : s.ctx.stat.valid = true) (n : Nat)
    (h : n ≤ 32) :
    ∃ t, runFeedingBack (roundCommands ks n) s = .next t ∧ t.ctx = s.ctx ∧
      t.port.din = packWords (cryptRounds (keySet ks s.ctx) (wordsOf s.port.din) n h) := by
  induction n with
  | zero => exact ⟨s, rfl, rfl, (packWords_wordsOf _).symm⟩
  | succ n ih =>
    obtain ⟨t, hrun, hctx, hdin⟩ := ih (Nat.le_of_succ_le h)
    have hx := exec_rnd_of_valid ks (BitVec.ofNat 5 n) (hctx ▸ hv : t.ctx.stat.valid = true)
    rw [hdin, hctx, wordsOf_packWords, positionOf_ofNat, wordAt_ofNat _ h] at hx
    rw [roundCommands_succ, cryptRounds_succ]
    exact ⟨_, runFeedingBack_concat hrun hx, (feedBack_answered_ctx ..).trans hctx, feedBack_answered_din ..⟩

/-- Settles O54: after the 32 rounds `REV` does what `crypt` does after its rounds. -/
theorem roundsThenReverseEqualCrypt : Obligations.RoundsThenReverseEqualCrypt := by
  intro ks s hv
  obtain ⟨t, hrun, hctx, hdin⟩ := runFeedingBack_roundCommands ks hv 32 le_rfl
  have hx := exec_rev t
  rw [hdin, wordsOf_packWords] at hx
  rw [roundsThenReverse_eq]
  exact ⟨_, _, runFeedingBack_concat hrun hx, (feedBack_answered_ctx ..).trans hctx, feedBack_answered_answer ..,
    exec_crypt_of_valid ks hv⟩

/-! ## `KINIT` and `KRND` (R138) -/

/-- `KINIT`, then `KRND 0` to `KRND (n - 1)`. -/
def keyRoundCommands (src : KeySource) (n : Nat) : List Instr :=
  .kinit src :: (List.range n).map fun r => .krnd (BitVec.ofNat 5 r)

theorem keyRoundCommands_succ (src : KeySource) (n : Nat) :
    keyRoundCommands src (n + 1) = keyRoundCommands src n ++ [.krnd (BitVec.ofNat 5 n)] := by
  simp [keyRoundCommands, List.range_succ]

theorem keyRoundsUpTo_eq (src : KeySource) (r : Nat) : keyRoundsUpTo src r = keyRoundCommands src (r + 1) := rfl

/-- The chain of `n` key rounds answers with the window after `n` rounds of the key schedule, and puts it on `DIN`. -/
theorem runFeedingBack_keyRoundCommands (src : KeySource) (s : State) (n : Nat) (h : n ≤ 32) :
    ∃ t, runFeedingBack (keyRoundCommands src n) s = .next t ∧ t.ctx = s.ctx ∧
      t.port.din = packWords (keyWindow (keyOperand src s.port.din) n h) ∧
      t.answer = some { dout := packWords (keyWindow (keyOperand src s.port.din) n h), status := .ok } := by
  induction n with
  | zero =>
    exact ⟨_, runFeedingBack_cons [] (exec_kinit src s), feedBack_answered_ctx .., feedBack_answered_din ..,
      feedBack_answered_answer ..⟩
  | succ n ih =>
    obtain ⟨t, hrun, hctx, hdin, -⟩ := ih (Nat.le_of_succ_le h)
    have hx := exec_krnd (BitVec.ofNat 5 n) t
    rw [hdin, wordsOf_packWords, wordAt_ofNat _ h] at hx
    rw [keyRoundCommands_succ, keyWindow_succ]
    exact ⟨_, runFeedingBack_concat hrun hx, (feedBack_answered_ctx ..).trans hctx, feedBack_answered_din ..,
      feedBack_answered_answer ..⟩

/-- Settles O55: after `KRND r` the last word of the window is round key `r` of the same key operand. -/
theorem keyRoundsShowTheRoundKeysOfKexp : Obligations.KeyRoundsShowTheRoundKeysOfKexp := by
  intro src s r hr hv
  obtain ⟨t, hrun, hctx, -, hans⟩ := runFeedingBack_keyRoundCommands src s (r + 1) hr
  refine ⟨t, _, _, keyRoundsUpTo_eq src r ▸ hrun, hctx, hans, exec_kexp_of_not_valid src hv, ?_⟩
  calc (keyExpand (keyOperand src s.port.din))[r]
    _ = (keyWindow (keyOperand src s.port.din) (r + 1) hr).x3 := keyExpand_getElem _ r hr
    _ = wordOf (packWords (keyWindow (keyOperand src s.port.din) (r + 1) hr)) 3 := (wordOf_packWords _ 3).symm

end Sys2Proof.Machine
end
